-- ==== Sys2Proof/Word.lean ====
section
/-! DEFINITION. The widths of the unit's buses (spec/00_scope.md R6, R7; spec/10_state.md R21, R22). -/

namespace Sys2Proof

/-- A 32-bit word: CMD, A, B, R, one entry of V, STATUS. -/
abbrev Word := BitVec 32

/-- A byte: one byte of a block, one channel, one alpha value. -/
abbrev Byte := BitVec 8

/-- A packed 16-bit color endpoint or alpha endpoint word. -/
abbrev Half := BitVec 16

/-- The 128 bits of BLK or BO (byte i in bits 8i+7 down to 8i, spec/20_memory.md R41). -/
abbrev Block := BitVec 128

end Sys2Proof
end

