-- ==== Sys2Proof/Config.lean ====
section
/-! DEFINITION. What the spec leaves to the implementation: the one open parameter NV_PALETTE
(spec/00_scope.md R6; spec/42_ramps.md R126; spec/92_eei_decisions.md D29). -/

namespace Sys2Proof

/-- The count that NV_PALETTE answers: 3 or 4 (R6). -/
inductive NvCount where
  | three
  | four
  deriving DecidableEq, Repr, Inhabited

/-- What NV_PALETTE answers: a count and four RGBA8 words (R6). -/
structure NvPalette where
  count : NvCount
  entries : Vector Word 4
  deriving DecidableEq, Repr, Inhabited

/-- NV_PALETTE, the vendor-specific palette of two packed endpoints (R126).
The spec leaves the formula OPEN, so nothing is known of it but that it is a function of (e0, e1).
DESIGN CHOICE in form (log entry 4), safe: whatever is proved holds for every such function. -/
opaque Config.nvPalette : Half → Half → NvPalette

end Sys2Proof
end

