-- ==== Sys2Proof/Syntax.lean ====
section
/-! DEFINITION. The flavors, the fault codes and the 31 operations of the command word
(spec/30_encoding.md R61, R64, R66; spec/60_exceptions.md R221). -/

namespace Sys2Proof

/-- The flavor that the FMT field selects (R64): five known tags, and the tags 5..15 that no flavor has. -/
inductive Flavor where
  | dxt1
  | dxt1a
  | dxt3
  | dxt5
  | dxt5a
  | unknown (tag : BitVec 4)
  deriving DecidableEq, Repr

/-- The causes of a fault (R221). -/
inductive FaultCode where
  | illegalOpcode
  | reservedField
  | badFormat
  | badIndex
  | valueRange
  deriving DecidableEq, Repr

/-- One constructor for each row of the opcode map (R66), with the fields that the row uses (R61). -/
inductive Instr where
  -- spec/41_packing.md
  | unpk565 (scaled : Bool)
  | pk565 (scaled : Bool) (bias : BitVec 8)
  | pkep32
  | unpkep32 (idx : BitVec 8)
  | pkep16
  | unpkep16 (idx : BitVec 8)
  -- spec/42_ramps.md
  | pal1 (rnd : Bool)
  | palnv
  | aramp
  | arampq
  -- spec/43_remap.md
  | d1fl (idx : BitVec 8)
  | d1tl (idx : BitVec 8)
  | d5fl (idx : BitVec 8)
  | d5tl (idx : BitVec 8)
  | inv6 (idx : BitVec 8)
  | inv8 (idx : BitVec 8)
  -- spec/44_dxt3_alpha.md
  | geta3 (scaled : Bool) (x y : BitVec 2)
  | seta3 (scaled : Bool) (x y : BitVec 2)
  -- spec/45_block_mux.md
  | gcep (fmt : Flavor)
  | scep (fmt : Flavor)
  | gcsel (fmt : Flavor) (x y : BitVec 2)
  | scsel (fmt : Flavor) (x y : BitVec 2)
  | gaep (fmt : Flavor)
  | saep (fmt : Flavor)
  | gasel (fmt : Flavor) (x y : BitVec 2)
  | sasel (fmt : Flavor) (x y : BitVec 2)
  | dect (fmt : Flavor) (x y : BitVec 2) (rnd : Bool)
  | decb (fmt : Flavor) (rnd : Bool)
  -- spec/46_format_metadata.md
  | fbpp (fmt : Flavor)
  | falpha (fmt : Flavor)
  | fblk (fmt : Flavor)
  deriving DecidableEq, Repr

end Sys2Proof
end

