-- ==== Sys2Proof/WellFormed.lean ====
section
/-! DEFINITION. What makes a term of Instr the reading of some command word (spec/30_encoding.md R64).
Every field but FMT has exactly the width of its bits, so the one check is that an unknown tag is none of the five
known ones. -/

namespace Sys2Proof

/-- The tags 5..15 are the unknown ones (R64). -/
def Flavor.wf : Flavor → Bool
  | .dxt1 | .dxt1a | .dxt3 | .dxt5 | .dxt5a => true
  | .unknown tag => 5 ≤ tag.toNat

/-- An instruction is well-formed when its flavor, if it has one, is. -/
def Instr.wf : Instr → Bool
  | .unpk565 _ | .pk565 _ _ | .pkep32 | .unpkep32 _ | .pkep16 | .unpkep16 _ => true
  | .pal1 _ | .palnv | .aramp | .arampq => true
  | .d1fl _ | .d1tl _ | .d5fl _ | .d5tl _ | .inv6 _ | .inv8 _ => true
  | .geta3 _ _ _ | .seta3 _ _ _ => true
  | .gcep f | .scep f | .gaep f | .saep f => f.wf
  | .gcsel f _ _ | .scsel f _ _ | .gasel f _ _ | .sasel f _ _ => f.wf
  | .dect f _ _ _ | .decb f _ => f.wf
  | .fbpp f | .falpha f | .fblk f => f.wf

end Sys2Proof
end

