-- ==== Sys2Proof/Decode.lean ====
section
/-! DEFINITION. The decoder of the command word and, after it, the encoder (spec/30_encoding.md R60 to R68). -/

namespace Sys2Proof

/-! ## The fields of CMD (R61) -/

def cmdOp (w : Word) : BitVec 6 := w.extractLsb' 0 6
def cmdS (w : Word) : Bool := w.getLsbD 6
def cmdRnd (w : Word) : Bool := w.getLsbD 7
def cmdX (w : Word) : BitVec 2 := w.extractLsb' 8 2
def cmdY (w : Word) : BitVec 2 := w.extractLsb' 10 2
def cmdFmt (w : Word) : BitVec 4 := w.extractLsb' 12 4
def cmdImm8 (w : Word) : BitVec 8 := w.extractLsb' 16 8

/-- The flavor of a format tag (R64). -/
def flavorOfTag (tag : BitVec 4) : Flavor :=
  match tag.toNat with
  | 0 => .dxt1
  | 1 => .dxt1a
  | 2 => .dxt3
  | 3 => .dxt5
  | 4 => .dxt5a
  | _ => .unknown tag

/-- The flavor that a command word selects. -/
def cmdFlavor (w : Word) : Flavor := flavorOfTag (cmdFmt w)

/-! ## Decoding -/

/-- One row of the opcode map (R66): a word with the row's OP whose masked bits match selects the row, and one whose
masked bits do not match has a nonzero unused or reserved field (R63). -/
def decodeRow (w mask pattern : Word) (i : Instr) : Except FaultCode Instr :=
  if w &&& mask = pattern then .ok i else .error .reservedField

/-- The decoder, total on all words (R66, R67, R68). -/
def decode (w : Word) : Except FaultCode Instr :=
  match (cmdOp w).toNat with
  | 0x01 => decodeRow w 0xFFFFFFBF 0x00000001 (.unpk565 (cmdS w))
  | 0x02 => decodeRow w 0xFF00FFBF 0x00000002 (.pk565 (cmdS w) (cmdImm8 w))
  | 0x03 => decodeRow w 0xFFFFFFFF 0x00000003 .pkep32
  | 0x04 => decodeRow w 0xFF00FFFF 0x00000004 (.unpkep32 (cmdImm8 w))
  | 0x05 => decodeRow w 0xFFFFFFFF 0x00000005 .pkep16
  | 0x06 => decodeRow w 0xFF00FFFF 0x00000006 (.unpkep16 (cmdImm8 w))
  | 0x08 => decodeRow w 0xFFFFFF7F 0x00000008 (.pal1 (cmdRnd w))
  | 0x09 => decodeRow w 0xFFFFFFFF 0x00000009 .palnv
  | 0x0A => decodeRow w 0xFFFFFFFF 0x0000000A .aramp
  | 0x0B => decodeRow w 0xFFFFFFFF 0x0000000B .arampq
  | 0x10 => decodeRow w 0xFF00FFFF 0x00000010 (.d1fl (cmdImm8 w))
  | 0x11 => decodeRow w 0xFF00FFFF 0x00000011 (.d1tl (cmdImm8 w))
  | 0x12 => decodeRow w 0xFF00FFFF 0x00000012 (.d5fl (cmdImm8 w))
  | 0x13 => decodeRow w 0xFF00FFFF 0x00000013 (.d5tl (cmdImm8 w))
  | 0x14 => decodeRow w 0xFF00FFFF 0x00000014 (.inv6 (cmdImm8 w))
  | 0x15 => decodeRow w 0xFF00FFFF 0x00000015 (.inv8 (cmdImm8 w))
  | 0x18 => decodeRow w 0xFFFFF0BF 0x00000018 (.geta3 (cmdS w) (cmdX w) (cmdY w))
  | 0x19 => decodeRow w 0xFFFFF0BF 0x00000019 (.seta3 (cmdS w) (cmdX w) (cmdY w))
  | 0x20 => decodeRow w 0xFFFF0FFF 0x00000020 (.gcep (cmdFlavor w))
  | 0x21 => decodeRow w 0xFFFF0FFF 0x00000021 (.scep (cmdFlavor w))
  | 0x22 => decodeRow w 0xFFFF00FF 0x00000022 (.gcsel (cmdFlavor w) (cmdX w) (cmdY w))
  | 0x23 => decodeRow w 0xFFFF00FF 0x00000023 (.scsel (cmdFlavor w) (cmdX w) (cmdY w))
  | 0x24 => decodeRow w 0xFFFF0FFF 0x00000024 (.gaep (cmdFlavor w))
  | 0x25 => decodeRow w 0xFFFF0FFF 0x00000025 (.saep (cmdFlavor w))
  | 0x26 => decodeRow w 0xFFFF00FF 0x00000026 (.gasel (cmdFlavor w) (cmdX w) (cmdY w))
  | 0x27 => decodeRow w 0xFFFF00FF 0x00000027 (.sasel (cmdFlavor w) (cmdX w) (cmdY w))
  | 0x28 => decodeRow w 0xFFFF007F 0x00000028 (.dect (cmdFlavor w) (cmdX w) (cmdY w) (cmdRnd w))
  | 0x29 => decodeRow w 0xFFFF0F7F 0x00000029 (.decb (cmdFlavor w) (cmdRnd w))
  | 0x30 => decodeRow w 0xFFFF0FFF 0x00000030 (.fbpp (cmdFlavor w))
  | 0x31 => decodeRow w 0xFFFF0FFF 0x00000031 (.falpha (cmdFlavor w))
  | 0x32 => decodeRow w 0xFFFF0FFF 0x00000032 (.fblk (cmdFlavor w))
  | _ => .error .illegalOpcode

/-! ## Encoding -/

/-- The format tag of a flavor (R64). -/
def tagOfFlavor : Flavor → BitVec 4
  | .dxt1 => 0
  | .dxt1a => 1
  | .dxt3 => 2
  | .dxt5 => 3
  | .dxt5a => 4
  | .unknown tag => tag

/-- The fields of a command word, each where R61 puts it, reserved bits 0. -/
def assembleFields (op : BitVec 6) (s rnd : Bool) (x y : BitVec 2) (fmt : BitVec 4) (imm8 : BitVec 8) : Word :=
  0#8 ++ imm8 ++ fmt ++ y ++ x ++ BitVec.ofBool rnd ++ BitVec.ofBool s ++ op

/-- A command that uses no field. -/
def encodePlain (op : BitVec 6) : Word := assembleFields op false false 0 0 0 0

/-- A command that uses IMM8 only. -/
def encodeImm (op : BitVec 6) (imm8 : BitVec 8) : Word := assembleFields op false false 0 0 0 imm8

/-- A command that uses FMT only. -/
def encodeFmt (op : BitVec 6) (f : Flavor) : Word := assembleFields op false false 0 0 (tagOfFlavor f) 0

/-- A command that uses FMT, X and Y. -/
def encodeTexel (op : BitVec 6) (f : Flavor) (x y : BitVec 2) : Word :=
  assembleFields op false false x y (tagOfFlavor f) 0

/-- The encoder: the word of an instruction, from the opcode map (R66) and the fields (R61). -/
def encode : Instr → Word
  | .unpk565 s => assembleFields 0x01 s false 0 0 0 0
  | .pk565 s bias => assembleFields 0x02 s false 0 0 0 bias
  | .pkep32 => encodePlain 0x03
  | .unpkep32 idx => encodeImm 0x04 idx
  | .pkep16 => encodePlain 0x05
  | .unpkep16 idx => encodeImm 0x06 idx
  | .pal1 rnd => assembleFields 0x08 false rnd 0 0 0 0
  | .palnv => encodePlain 0x09
  | .aramp => encodePlain 0x0A
  | .arampq => encodePlain 0x0B
  | .d1fl idx => encodeImm 0x10 idx
  | .d1tl idx => encodeImm 0x11 idx
  | .d5fl idx => encodeImm 0x12 idx
  | .d5tl idx => encodeImm 0x13 idx
  | .inv6 idx => encodeImm 0x14 idx
  | .inv8 idx => encodeImm 0x15 idx
  | .geta3 s x y => assembleFields 0x18 s false x y 0 0
  | .seta3 s x y => assembleFields 0x19 s false x y 0 0
  | .gcep f => encodeFmt 0x20 f
  | .scep f => encodeFmt 0x21 f
  | .gcsel f x y => encodeTexel 0x22 f x y
  | .scsel f x y => encodeTexel 0x23 f x y
  | .gaep f => encodeFmt 0x24 f
  | .saep f => encodeFmt 0x25 f
  | .gasel f x y => encodeTexel 0x26 f x y
  | .sasel f x y => encodeTexel 0x27 f x y
  | .dect f x y rnd => assembleFields 0x28 false rnd x y (tagOfFlavor f) 0
  | .decb f rnd => assembleFields 0x29 false rnd 0 0 (tagOfFlavor f) 0
  | .fbpp f => encodeFmt 0x30 f
  | .falpha f => encodeFmt 0x31 f
  | .fblk f => encodeFmt 0x32 f

/-! ## The host's question -/

/-- The command word whose low nbits bits are those of w, every bit above them 0.
CMD is one 32-bit word (R60), so the opcode table's bit numbers are CMD's own. -/
def tableWord (nbits w : Nat) : Word := BitVec.ofNat 32 (w % 2 ^ nbits)

/-- The instruction that the decoder reads from an instruction whose bits are w, numbered as the opcode table numbers
them; none where it refuses, and none for a word longer than CMD. -/
def decodeTableWord (nbits w : Nat) : Option Instr :=
  if nbits ≤ 32 then (decode (tableWord nbits w)).toOption else none

end Sys2Proof
end

