-- ==== Sys2Proof/Machine/Rom.lean ====
section
/-! DEFINITION. The six constant tables (spec/10_state.md R26, R27). -/

namespace Sys2Proof.Machine

/-- The unit's read-only tables. An entry of a 4-entry table has 2 bits and one of an 8-entry table 3 bits, so every
entry is less than its table's size (R27). -/
structure RomTables where
  d1FromLinear : Vector (BitVec 2) 4
  d1ToLinear : Vector (BitVec 2) 4
  d5FromLinear : Vector (BitVec 3) 8
  d5ToLinear : Vector (BitVec 3) 8
  inv6 : Vector (BitVec 3) 8
  inv8 : Vector (BitVec 3) 8
  deriving DecidableEq, Repr

/-- The contents of the tables, index 0 first (R27). -/
def romConstants : RomTables where
  d1FromLinear := #v[0, 2, 3, 1]
  d1ToLinear := #v[0, 3, 1, 2]
  d5FromLinear := #v[0, 2, 3, 4, 5, 6, 7, 1]
  d5ToLinear := #v[0, 7, 1, 2, 3, 4, 5, 6]
  inv6 := #v[1, 0, 5, 4, 3, 2, 6, 7]
  inv8 := #v[1, 0, 7, 6, 5, 4, 3, 2]

end Sys2Proof.Machine
end

