-- ==== Sys2Proof/Machine/State.lean ====
section
/-! DEFINITION. The state of one unit as plain data (spec/10_state.md), why a step can stop, and the state after
reset. -/

namespace Sys2Proof.Machine

/-- The request inputs that the host presents together and holds until the response (spec/10_state.md R21). -/
structure Request where
  cmd : Word
  a : Word
  b : Word
  blk : Block
  deriving DecidableEq, Repr

/-- The response outputs of one request (spec/10_state.md R22). -/
structure Response where
  r : Word
  cnt : BitVec 4
  v : Vector Word 16
  bo : Block
  fault : Bool
  fcode : BitVec 4
  deriving DecidableEq, Repr

/-- What the host can do to the unit that changes its state (spec/70_reset_and_hazards.md R266, R267).
Reading STATUS changes nothing and needs no move. -/
inductive HostMove where
  /-- Present a request and hold it until its response. -/
  | request (q : Request)
  /-- Assert reset, while the named request is in progress if there is one (R260). -/
  | reset (inProgress : Option Request)
  deriving DecidableEq, Repr

/-- Why a step stops for good. -/
inductive Fault where
  /-- Raised by every request, whatever its command, while STATUS.FAULTED = 1: "the unit accepts no request" and "A
  model represents the faulted unit as stuck and never final" (spec/60_exceptions.md R226). Safe: nothing runs after
  it. Log entry 2. -/
  | stuckUntilReset
  deriving DecidableEq, Repr

/-- Why an instruction gets no meaning. -/
inductive Refusal where
  /-- Raised by exec's arm for an instruction that has no meaning yet. Safe: nothing runs after it. -/
  | notModelled (mnemonic : String)
  /-- Raised by exec where the host presents no request, so that there are no operands and nobody to answer
  (spec/10_state.md R33; spec/93_implementation_defined.md U7). A step never calls exec there. Safe. Log entry 5. -/
  | noRequestPresented
  deriving DecidableEq, Repr

/-- The state of one unit and of the host's side of its ports. -/
structure State where
  /-- The constant tables (spec/10_state.md R26). -/
  rom : RomTables
  /-- STATUS, the one register kept from request to request (spec/10_state.md R25). -/
  status : Word
  /-- The response outputs of the last request; none where no response exists (spec/10_state.md R22, R33). -/
  response : Option Response
  /-- What the host does next, in order. The model's own field: log entry 1. -/
  hostMoves : List HostMove
  deriving DecidableEq, Repr

/-- The unit right after reset (spec/10_state.md R33), with nothing presented by the host. -/
def State.reset : State where
  rom := romConstants
  status := 0
  response := none
  hostMoves := []

end Sys2Proof.Machine
end

