-- ==== Sys2Proof/Machine/Ops.lean ====
section
/-! DEFINITION. The named operations that every meaning is written over: bit fields, block fields, RGBA words, the
STATUS fields, the response, the shared course of a request, fault entry and reset. -/

namespace Sys2Proof.Machine

/-! ## Bit fields (spec/00_scope.md R7) -/

/-- v[lo+w-1:lo] <- f: replaces those bits and leaves every other bit of v. -/
def writeField {n w : Nat} (v : BitVec n) (lo : Nat) (f : BitVec w) : BitVec n :=
  (v &&& ~~~((BitVec.allOnes w).setWidth n <<< lo)) ||| (f.setWidth n <<< lo)

/-! ## The block (spec/20_memory.md R41) -/

/-- BlkByte(i). -/
def blkByte (blk : Block) (i : Nat) : Byte := blk.extractLsb' (8 * i) 8

/-- BlkLE(o, n), the little-endian field of w = 8n bits at byte offset o. -/
def blkField (blk : Block) (o w : Nat) : BitVec w := blk.extractLsb' (8 * o) w

/-- BO: BlkLE(o, n) <- f, for a field of w = 8n bits. -/
def writeBlkField {w : Nat} (blk : Block) (o : Nat) (f : BitVec w) : Block := writeField blk (8 * o) f

/-! ## RGBA8 words (spec/00_scope.md R10) -/

def rgba (r g b a : Byte) : Word := a ++ b ++ g ++ r
def laneR (w : Word) : Byte := w.extractLsb' 0 8
def laneG (w : Word) : Byte := w.extractLsb' 8 8
def laneB (w : Word) : Byte := w.extractLsb' 16 8
def laneA (w : Word) : Byte := w.extractLsb' 24 8

/-- The word with the alpha lane replaced, the concatenation of the alpha and the low 24 bits
(spec/45_block_mux.md R182). -/
def withAlpha (w : Word) (a : Byte) : Word := a ++ w.extractLsb' 0 24

/-! ## STATUS (spec/10_state.md R25) -/

def statusFaulted (status : Word) : Bool := status.getLsbD 0
def statusFcode (status : Word) : BitVec 4 := status.extractLsb' 4 4
def statusFop (status : Word) : BitVec 6 := status.extractLsb' 8 6

/-- The number of a fault code (spec/60_exceptions.md R221). -/
def fcodeOf : FaultCode → BitVec 4
  | .illegalOpcode => 1
  | .reservedField => 2
  | .badFormat => 3
  | .badIndex => 4
  | .valueRange => 5

/-- STATUS after fault entry: FAULTED = 1, the code, the faulting OP, reserved bits 0 (spec/60_exceptions.md R225). -/
def faultStatus (code : FaultCode) (op : BitVec 6) : Word := 0#18 ++ op ++ fcodeOf code ++ 0#3 ++ 1#1

/-- What the host reads on the status port, at any time and with no effect (spec/10_state.md R25). -/
def State.readStatus (s : State) : Word := s.status

/-! ## Responses (spec/10_state.md R22, R23: an output that a rule does not write is 0) -/

def zeroVector : Vector Word 16 := Vector.replicate 16 0

/-- A response that writes R only. -/
def Response.scalar (r : Word) : Response :=
  { r := r, cnt := 0, v := zeroVector, bo := 0, fault := false, fcode := 0 }

/-- A response that writes CNT and V only. -/
def Response.vector (cnt : BitVec 4) (v : Vector Word 16) : Response :=
  { r := 0, cnt := cnt, v := v, bo := 0, fault := false, fcode := 0 }

/-- A response that writes BO only. -/
def Response.block (bo : Block) : Response :=
  { r := 0, cnt := 0, v := zeroVector, bo := bo, fault := false, fcode := 0 }

/-- The response of a request that faults (spec/60_exceptions.md R225). -/
def Response.faulted (code : FaultCode) : Response :=
  { r := 0, cnt := 0, v := zeroVector, bo := 0, fault := true, fcode := fcodeOf code }

/-- V with the words of the given entries first and 0 above them. -/
def padVector {α : Type} {n : Nat} (word : α → Word) (p : Vector α n) : Vector Word 16 :=
  Vector.ofFn fun i => if h : i.val < n then word p[i.val] else 0

/-! ## The course of a request -/

/-- The request's response: the host's move is done, STATUS and the tables stay. -/
def State.respond (s : State) (resp : Response) : State :=
  { s with response := some resp, hostMoves := s.hostMoves.tail }

/-- TAKING A FAULT (spec/60_exceptions.md R225): the fault response, and STATUS with the code and CMD.OP, in one step. -/
def State.enterFault (s : State) (q : Request) (code : FaultCode) : State :=
  { s with
    status := faultStatus code (cmdOp q.cmd)
    response := some (Response.faulted code)
    hostMoves := s.hostMoves.tail }

/-- The one way out of the faulted state, which has no return operation (spec/60_exceptions.md R227): reset
(spec/70_reset_and_hazards.md R260). STATUS is cleared, a request in progress is dropped without a response, the tables
stay, and no response exists until the next accepted request (spec/10_state.md R33; log entry 3). -/
def State.takeReset (s : State) : State :=
  { s with status := 0, response := none, hostMoves := s.hostMoves.tail }

/-- The course that every request takes (spec/70_reset_and_hazards.md R266; spec/60_exceptions.md R225, R226): the
faulted unit accepts none; otherwise the operation either answers or faults. -/
def perform (s : State) (op : Request → Except FaultCode Response) : Host.Outcome State Fault Refusal :=
  match s.hostMoves with
  | .request q :: _ =>
    if statusFaulted s.status then .fault .stuckUntilReset
    else
      match op q with
      | .ok resp => .next (s.respond resp)
      | .error code => .next (s.enterFault q code)
  | _ => .refused .noRequestPresented

/-- A command word that the decoder turns down (spec/30_encoding.md R63, R67). -/
def raiseAtDecode (code : FaultCode) (s : State) : Host.Outcome State Fault Refusal :=
  perform s fun _ => .error code

/-- The host's moves with cmd as the command word of the next one: a request that stands first keeps its operands, and
otherwise a request with zero operands is put first. -/
def presentWord (cmd : Word) : List HostMove → List HostMove
  | .request q :: rest => .request { q with cmd := cmd } :: rest
  | moves => .request { cmd := cmd, a := 0, b := 0, blk := 0 } :: moves

/-- Reset as a step. -/
def resetStep (s : State) : Host.Outcome State Fault Refusal := .next s.takeReset

/-- "Between requests it is idle, and idleness changes no state" (spec/60_exceptions.md R235). -/
def idleStep (s : State) : Host.Outcome State Fault Refusal := .next s

end Sys2Proof.Machine
end

