-- ==== Sys2Proof/Machine/Operands.lean ====
section
/-! DEFINITION. The operand forms: the views of A, B and IMM8, the range checks, the place of a texel and of a
flavor's sub-blocks, and the color channels (spec/30_encoding.md R62, R64, R65; spec/20_memory.md R43 to R49;
spec/45_block_mux.md R170, R171). -/

namespace Sys2Proof.Machine

/-! ## A, B and the checks -/

/-- An operand bus's low 16 bits. -/
def low16 (w : Word) : Half := w.extractLsb' 0 16

/-- An operand bus's low 8 bits. -/
def low8 (w : Word) : Byte := w.extractLsb' 0 8

/-- Goes on unless an index or a value is above its bound; a violation has the given code (R65). -/
def checkMax (code : FaultCode) (v bound : Nat) (go : Except FaultCode Response) : Except FaultCode Response :=
  if bound < v then .error code else go

/-! ## Texels (spec/00_scope.md R11) -/

/-- t = y*4 + x. -/
def texelNumber (x y : BitVec 2) : Nat := y.toNat * 4 + x.toNat

/-- The 2-bit color selector of texel t in SEL32 (spec/20_memory.md R44). -/
def colorSel (sel32 : BitVec 32) (t : Nat) : BitVec 2 := sel32.extractLsb' (2 * t) 2

/-- The 3-bit alpha selector of texel t in SEL48 (spec/20_memory.md R48). -/
def alphaSel (sel48 : BitVec 48) (t : Nat) : BitVec 3 := sel48.extractLsb' (3 * t) 3

/-- The explicit 4-bit alpha of texel (x, y) (spec/20_memory.md R46; spec/44_dxt3_alpha.md R160). -/
def nibble (blk : Block) (x y : BitVec 2) : BitVec 4 :=
  (blkByte blk (y.toNat * 2 + x.toNat / 2)).extractLsb' (4 * (x.toNat % 2)) 4

/-- A nibble scaled to 8 bits by replication, (v << 4) | v (spec/44_dxt3_alpha.md R160). -/
def expandNibble (v : BitVec 4) : Byte := (v.setWidth 8 <<< 4) ||| v.setWidth 8

/-! ## Flavors (spec/45_block_mux.md R170, R171) -/

/-- The base offset of the color block; a flavor without one is not taken. -/
def colorBase : Flavor → Except FaultCode Nat
  | .dxt1 | .dxt1a => .ok 0
  | .dxt3 | .dxt5 => .ok 8
  | .dxt5a | .unknown _ => .error .badFormat

/-- Goes on with the color block's base offset. -/
def onColorBlock (f : Flavor) (go : Nat → Except FaultCode Response) : Except FaultCode Response :=
  match colorBase f with
  | .ok o => go o
  | .error code => .error code

/-- Goes on for the flavors with an interpolated alpha sub-block. -/
def onAlphaBlock (f : Flavor) (go : Except FaultCode Response) : Except FaultCode Response :=
  match f with
  | .dxt5 | .dxt5a => go
  | .dxt1 | .dxt1a | .dxt3 | .unknown _ => .error .badFormat

/-! ## Color channels (spec/41_packing.md R100 to R102) -/

def red5 (p : Half) : BitVec 5 := p.extractLsb' 11 5
def green6 (p : Half) : BitVec 6 := p.extractLsb' 5 6
def blue5 (p : Half) : BitVec 5 := p.extractLsb' 0 5

/-- Bit replication of a 5-bit channel, (v << 3) | (v >> 2). -/
def expand5 (c : BitVec 5) : Byte := (c.setWidth 8 <<< 3) ||| (c.setWidth 8 >>> 2)

/-- Bit replication of a 6-bit channel, (v << 2) | (v >> 4). -/
def expand6 (c : BitVec 6) : Byte := (c.setWidth 8 <<< 2) ||| (c.setWidth 8 >>> 4)

/-- A packed endpoint as an RGBA8 word, with the given alpha (R101). -/
def unpackColor (scaled : Bool) (p : Half) (alpha : Byte) : Word :=
  if scaled then rgba (expand5 (red5 p)) (expand6 (green6 p)) (expand5 (blue5 p)) alpha
  else rgba ((red5 p).setWidth 8) ((green6 p).setWidth 8) ((blue5 p).setWidth 8) alpha

/-- One channel of a pack: quantised to max if scaled, then clamped to max (R102). -/
def packChannel (scaled : Bool) (c : Byte) (max : Nat) (bias : BitVec 8) : Nat :=
  min (if scaled then (c.toNat * max + bias.toNat) / 255 else c.toNat) max

end Sys2Proof.Machine
end

