-- ==== Sys2Proof/Machine/Flags.lean ====
section
/-! DEFINITION. The unit has no flags: the one condition that a response reports is the mode of a palette or a ramp,
as the count CNT (spec/10_state.md R30). -/

namespace Sys2Proof.Machine

/-- The DXT1 mode: true for the 4-color palette, a strict comparison of the packed endpoints (spec/42_ramps.md R123). -/
def fourColor (e0 e1 : Half) : Bool := e1.toNat < e0.toNat

/-- The DXT5 alpha mode: true for the 8-value ramp (spec/42_ramps.md R127). -/
def eightValue (l h : Byte) : Bool := h.toNat < l.toNat

/-- CNT of a DXT1 palette (R124). -/
def colorCount (e0 e1 : Half) : BitVec 4 := if fourColor e0 e1 then 4 else 3

/-- CNT of a DXT5 alpha ramp (R129). -/
def alphaCount (l h : Byte) : BitVec 4 := if eightValue l h then 8 else 6

/-- CNT of the vendor palette (R126). -/
def nvCount : NvCount → BitVec 4
  | .three => 3
  | .four => 4

end Sys2Proof.Machine
end

