-- ==== Sys2Proof/Machine/Ramps.lean ====
section
/-! DEFINITION. The interpolation ramps (spec/42_ramps.md). -/

namespace Sys2Proof.Machine

/-! ## The DXT1 palette -/

/-- The rounding addend k of the RND bit (R120). -/
def roundAddend (rnd : Bool) : Nat := if rnd then 1 else 0

/-- 2/3 of c0, 1/3 of c1 (R120). -/
def third2 (c0 c1 : Byte) (k : Nat) : Byte := BitVec.ofNat 8 ((2 * c0.toNat + c1.toNat + k) / 3)

/-- 1/3 of c0, 2/3 of c1 (R120). -/
def third1 (c0 c1 : Byte) (k : Nat) : Byte := BitVec.ofNat 8 ((c0.toNat + 2 * c1.toNat + k) / 3)

/-- The midpoint (R120). -/
def half (c0 c1 : Byte) (k : Nat) : Byte := BitVec.ofNat 8 ((c0.toNat + c1.toNat + k) / 2)

/-- Interpolates the three color channels of two words, alpha 255. -/
def blend (mix : Byte → Byte → Nat → Byte) (c0 c1 : Word) (k : Nat) : Word :=
  rgba (mix (laneR c0) (laneR c1) k) (mix (laneG c0) (laneG c1) k) (mix (laneB c0) (laneB c1) k) 255

/-- The 4-color palette (R121). -/
def palette4 (e0 e1 : Half) (k : Nat) : Vector Word 4 :=
  let c0 := unpackColor true e0 255
  let c1 := unpackColor true e1 255
  #v[c0, c1, blend third2 c0 c1 k, blend third1 c0 c1 k]

/-- The 3-color palette with its transparent black sentinel (R122). -/
def palette3 (e0 e1 : Half) (k : Nat) : Vector Word 4 :=
  let c0 := unpackColor true e0 255
  let c1 := unpackColor true e1 255
  #v[c0, c1, blend half c0 c1 k, rgba 0 0 0 0]

/-- The palette of the mode that the packed endpoints choose (R123). -/
def palette (e0 e1 : Half) (k : Nat) : Vector Word 4 :=
  if fourColor e0 e1 then palette4 e0 e1 k else palette3 e0 e1 k

/-! ## The DXT5 alpha ramp -/

/-- One interpolated alpha, (wl*l + wh*h) / d, truncating. -/
def mixAlpha (l h : Byte) (wl wh d : Nat) : Byte := BitVec.ofNat 8 ((wl * l.toNat + wh * h.toNat) / d)

/-- The 8-value ramp (R128). -/
def alphaRamp8 (l h : Byte) : Vector Byte 8 :=
  #v[l, h, mixAlpha l h 6 1 7, mixAlpha l h 5 2 7, mixAlpha l h 4 3 7, mixAlpha l h 3 4 7, mixAlpha l h 2 5 7,
    mixAlpha l h 1 6 7]

/-- The 6-value ramp with its constants 0 and 255 (R128). -/
def alphaRamp6 (l h : Byte) : Vector Byte 8 :=
  #v[l, h, mixAlpha l h 4 1 5, mixAlpha l h 3 2 5, mixAlpha l h 2 3 5, mixAlpha l h 1 4 5, 0, 255]

/-- The ramp of the mode that the endpoints choose (R127, R128). -/
def alphaRamp (l h : Byte) : Vector Byte 8 := if eightValue l h then alphaRamp8 l h else alphaRamp6 l h

/-! ## The operations -/

/-- PAL1 (R124). -/
def execPal1 (rnd : Bool) (s : State) : Host.Outcome State Fault Refusal :=
  perform s fun q =>
    .ok (.vector (colorCount (low16 q.a) (low16 q.b))
      (padVector id (palette (low16 q.a) (low16 q.b) (roundAddend rnd))))

/-- PALNV (R126): the open parameter NV_PALETTE. -/
def execPalnv (s : State) : Host.Outcome State Fault Refusal :=
  perform s fun q =>
    let p := Config.nvPalette (low16 q.a) (low16 q.b)
    .ok (.vector (nvCount p.count) (padVector id p.entries))

/-- ARAMP (R129): the ramp as plain integers. -/
def execAramp (s : State) : Host.Outcome State Fault Refusal :=
  perform s fun q =>
    .ok (.vector (alphaCount (low8 q.a) (low8 q.b))
      (padVector (fun t => t.setWidth 32) (alphaRamp (low8 q.a) (low8 q.b))))

/-- ARAMPQ (R130): the ramp in the alpha lanes. -/
def execArampq (s : State) : Host.Outcome State Fault Refusal :=
  perform s fun q =>
    .ok (.vector (alphaCount (low8 q.a) (low8 q.b))
      (padVector (fun t => rgba 0 0 0 t) (alphaRamp (low8 q.a) (low8 q.b))))

end Sys2Proof.Machine
end

