-- ==== Sys2Proof/Machine/BlockMux.lean ====
section
/-! DEFINITION. The block multiplexer (spec/45_block_mux.md). -/

namespace Sys2Proof.Machine

/-! ## Field access -/

/-- GCEP (R172). -/
def execGcep (fmt : Flavor) (s : State) : Host.Outcome State Fault Refusal :=
  perform s fun q => onColorBlock fmt fun o => .ok (.scalar (blkField q.blk o 32))

/-- SCEP (R173). -/
def execScep (fmt : Flavor) (s : State) : Host.Outcome State Fault Refusal :=
  perform s fun q => onColorBlock fmt fun o => .ok (.block (writeBlkField q.blk o q.a))

/-- GCSEL (R174). -/
def execGcsel (fmt : Flavor) (x y : BitVec 2) (s : State) : Host.Outcome State Fault Refusal :=
  perform s fun q => onColorBlock fmt fun o =>
    .ok (.scalar ((colorSel (blkField q.blk (o + 4) 32) (texelNumber x y)).setWidth 32))

/-- SCSEL (R175). -/
def execScsel (fmt : Flavor) (x y : BitVec 2) (s : State) : Host.Outcome State Fault Refusal :=
  perform s fun q => onColorBlock fmt fun o =>
    checkMax .valueRange q.a.toNat 3 <|
      .ok (.block (writeBlkField q.blk (o + 4)
        (writeField (blkField q.blk (o + 4) 32) (2 * texelNumber x y) (q.a.extractLsb' 0 2))))

/-- GAEP (R176). -/
def execGaep (fmt : Flavor) (s : State) : Host.Outcome State Fault Refusal :=
  perform s fun q => onAlphaBlock fmt <| .ok (.scalar ((blkField q.blk 0 16).setWidth 32))

/-- SAEP (R177). -/
def execSaep (fmt : Flavor) (s : State) : Host.Outcome State Fault Refusal :=
  perform s fun q => onAlphaBlock fmt <| .ok (.block (writeBlkField q.blk 0 (low16 q.a)))

/-- GASEL (R178). -/
def execGasel (fmt : Flavor) (x y : BitVec 2) (s : State) : Host.Outcome State Fault Refusal :=
  perform s fun q => onAlphaBlock fmt <|
    .ok (.scalar ((alphaSel (blkField q.blk 2 48) (texelNumber x y)).setWidth 32))

/-- SASEL (R179). -/
def execSasel (fmt : Flavor) (x y : BitVec 2) (s : State) : Host.Outcome State Fault Refusal :=
  perform s fun q => onAlphaBlock fmt <|
    checkMax .valueRange q.a.toNat 7 <|
      .ok (.block (writeBlkField q.blk 2
        (writeField (blkField q.blk 2 48) (3 * texelNumber x y) (q.a.extractLsb' 0 3))))

/-! ## Texel decode -/

/-- colorTexel(o, t, k), the palette entry that the raw stored selector names (R180). -/
def colorTexel (blk : Block) (o t k : Nat) : Word :=
  (palette (blkField blk o 16) (blkField blk (o + 2) 16) k)[(colorSel (blkField blk (o + 4) 32) t).toNat]

/-- alphaTexel(t), the ramp entry that the stored selector names (R181). -/
def alphaTexel (blk : Block) (t : Nat) : Byte :=
  (alphaRamp (blkByte blk 0) (blkByte blk 1))[(alphaSel (blkField blk 2 48) t).toNat]

/-- How a known flavor decodes a texel (R182, R184, R185); an unknown one does not. -/
def texelDecoder (fmt : Flavor) : Except FaultCode (Block → BitVec 2 → BitVec 2 → Nat → Word) :=
  match fmt with
  | .dxt1 | .dxt1a => .ok fun blk x y k => colorTexel blk 0 (texelNumber x y) k
  | .dxt3 => .ok fun blk x y k => withAlpha (colorTexel blk 8 (texelNumber x y) k) (expandNibble (nibble blk x y))
  | .dxt5 => .ok fun blk x y k => withAlpha (colorTexel blk 8 (texelNumber x y) k) (alphaTexel blk (texelNumber x y))
  | .dxt5a => .ok fun blk x y _ => (alphaTexel blk (texelNumber x y)).setWidth 32
  | .unknown _ => .error .badFormat

/-- DECT (R182). -/
def execDect (fmt : Flavor) (x y : BitVec 2) (rnd : Bool) (s : State) : Host.Outcome State Fault Refusal :=
  perform s fun q =>
    match texelDecoder fmt with
    | .ok texel => .ok (.scalar (texel q.blk x y (roundAddend rnd)))
    | .error code => .error code

/-- DECB (R183): the sixteen DECT results, x = t & 3, y = t >> 2. -/
def execDecb (fmt : Flavor) (rnd : Bool) (s : State) : Host.Outcome State Fault Refusal :=
  perform s fun q =>
    match texelDecoder fmt with
    | .ok texel =>
      .ok (.vector 0 (Vector.ofFn fun t : Fin 16 =>
        texel q.blk (BitVec.ofNat 2 (t.val % 4)) (BitVec.ofNat 2 (t.val / 4)) (roundAddend rnd)))
    | .error code => .error code

end Sys2Proof.Machine
end

