-- ==== Sys2Proof/Machine/Dxt3Alpha.lean ====
section
/-! DEFINITION. The explicit alpha of DXT3 (spec/44_dxt3_alpha.md). -/

namespace Sys2Proof.Machine

/-- BLK with the nibble of texel (x, y) replaced: the low nibble of its byte for even x, the high one for odd x (R162). -/
def writeNibble (blk : Block) (x y : BitVec 2) (v : BitVec 4) : Block :=
  let i := y.toNat * 2 + x.toNat / 2
  if x.toNat % 2 = 0 then writeField blk (8 * i) v else writeField blk (8 * i + 4) v

/-- The 4-bit value that SETA3 stores (R162). -/
def quantiseAlpha (scaled : Bool) (a : Word) : BitVec 4 :=
  BitVec.ofNat 4 (if scaled then (a.toNat * 15 + 128) / 255 else a.toNat)

/-- GETA3 (R161). -/
def execGeta3 (scaled : Bool) (x y : BitVec 2) (s : State) : Host.Outcome State Fault Refusal :=
  perform s fun q =>
    let v := nibble q.blk x y
    .ok (.scalar (if scaled then (expandNibble v).setWidth 32 else v.setWidth 32))

/-- SETA3 (R162). -/
def execSeta3 (scaled : Bool) (x y : BitVec 2) (s : State) : Host.Outcome State Fault Refusal :=
  perform s fun q =>
    checkMax .valueRange q.a.toNat (if scaled then 255 else 15) <|
      .ok (.block (writeNibble q.blk x y (quantiseAlpha scaled q.a)))

end Sys2Proof.Machine
end

