-- ==== Sys2Proof/Machine/Metadata.lean ====
section
/-! DEFINITION. The format metadata queries (spec/46_format_metadata.md). -/

namespace Sys2Proof.Machine

/-- Bits per pixel of a known flavor (R200). -/
def bitsPerPixel : Flavor → Except FaultCode Nat
  | .dxt1 | .dxt1a | .dxt5a => .ok 4
  | .dxt3 | .dxt5 => .ok 8
  | .unknown _ => .error .badFormat

/-- The declared alpha of a known flavor (R200). -/
def hasAlpha : Flavor → Except FaultCode Nat
  | .dxt1 => .ok 0
  | .dxt1a | .dxt3 | .dxt5 | .dxt5a => .ok 1
  | .unknown _ => .error .badFormat

/-- A query's answer in R. -/
def answerQuery (v : Except FaultCode Nat) : Except FaultCode Response :=
  match v with
  | .ok n => .ok (.scalar (BitVec.ofNat 32 n))
  | .error code => .error code

/-- FBPP (R201). -/
def execFbpp (fmt : Flavor) (s : State) : Host.Outcome State Fault Refusal :=
  perform s fun _ => answerQuery (bitsPerPixel fmt)

/-- FALPHA (R202). -/
def execFalpha (fmt : Flavor) (s : State) : Host.Outcome State Fault Refusal :=
  perform s fun _ => answerQuery (hasAlpha fmt)

/-- FBLK (R203): bits per pixel times 2. -/
def execFblk (fmt : Flavor) (s : State) : Host.Outcome State Fault Refusal :=
  perform s fun _ => answerQuery ((bitsPerPixel fmt).map fun n => n * 2)

end Sys2Proof.Machine
end

