-- ==== Sys2Proof/Machine/Packing.lean ====
section
/-! DEFINITION. The packing primitives (spec/41_packing.md). -/

namespace Sys2Proof.Machine

/-- UNPK565 (R101): A[15:0] unpacked, alpha = min(B, 255). -/
def execUnpk565 (scaled : Bool) (s : State) : Host.Outcome State Fault Refusal :=
  perform s fun q =>
    .ok (.scalar (unpackColor scaled (low16 q.a) (BitVec.ofNat 8 (min q.b.toNat 255))))

/-- PK565 (R102): the channels r, g, b of A packed as B | G<<5 | R<<11. -/
def execPk565 (scaled : Bool) (bias : BitVec 8) (s : State) : Host.Outcome State Fault Refusal :=
  perform s fun q =>
    .ok (.scalar (BitVec.ofNat 32
      (packChannel scaled (laneB q.a) 31 bias ||| packChannel scaled (laneG q.a) 63 bias <<< 5
        ||| packChannel scaled (laneR q.a) 31 bias <<< 11)))

/-- PKEP32 (R104): A | B<<16, each operand at most 0xFFFF. -/
def execPkep32 (s : State) : Host.Outcome State Fault Refusal :=
  perform s fun q =>
    checkMax .valueRange q.a.toNat 0xFFFF <| checkMax .valueRange q.b.toNat 0xFFFF <|
      .ok (.scalar (q.a ||| q.b <<< 16))

/-- UNPKEP32 (R105): the half of A that the index names. -/
def execUnpkep32 (idx : BitVec 8) (s : State) : Host.Outcome State Fault Refusal :=
  perform s fun q =>
    checkMax .badIndex idx.toNat 1 <| .ok (.scalar ((q.a >>> (16 * idx.toNat)) &&& 0xFFFF))

/-- PKEP16 (R106): A | B<<8, each operand at most 255. -/
def execPkep16 (s : State) : Host.Outcome State Fault Refusal :=
  perform s fun q =>
    checkMax .valueRange q.a.toNat 255 <| checkMax .valueRange q.b.toNat 255 <|
      .ok (.scalar (q.a ||| q.b <<< 8))

/-- UNPKEP16 (R107): the byte of A[15:0] that the index names. -/
def execUnpkep16 (idx : BitVec 8) (s : State) : Host.Outcome State Fault Refusal :=
  perform s fun q =>
    checkMax .badIndex idx.toNat 1 <|
      .ok (.scalar (((low16 q.a).setWidth 32 >>> (8 * idx.toNat)) &&& 0xFF))

end Sys2Proof.Machine
end

