-- ==== Sys2Proof/Machine/Remap.lean ====
section
/-! DEFINITION. The selector remapper (spec/43_remap.md). -/

namespace Sys2Proof.Machine

/-- A remap operation (R140): the entry of a table of n entries at IMM8, BAD_INDEX where there is none. -/
def remap {n w : Nat} (table : Vector (BitVec w) n) (idx : BitVec 8) : Except FaultCode Response :=
  if h : idx.toNat < n then .ok (.scalar (table[idx.toNat].setWidth 32)) else .error .badIndex

/-- D1FL (R141). -/
def execD1fl (idx : BitVec 8) (s : State) : Host.Outcome State Fault Refusal :=
  perform s fun _ => remap s.rom.d1FromLinear idx

/-- D1TL (R142). -/
def execD1tl (idx : BitVec 8) (s : State) : Host.Outcome State Fault Refusal :=
  perform s fun _ => remap s.rom.d1ToLinear idx

/-- D5FL (R143). -/
def execD5fl (idx : BitVec 8) (s : State) : Host.Outcome State Fault Refusal :=
  perform s fun _ => remap s.rom.d5FromLinear idx

/-- D5TL (R144). -/
def execD5tl (idx : BitVec 8) (s : State) : Host.Outcome State Fault Refusal :=
  perform s fun _ => remap s.rom.d5ToLinear idx

/-- INV6 (R145). -/
def execInv6 (idx : BitVec 8) (s : State) : Host.Outcome State Fault Refusal :=
  perform s fun _ => remap s.rom.inv6 idx

/-- INV8 (R146). -/
def execInv8 (idx : BitVec 8) (s : State) : Host.Outcome State Fault Refusal :=
  perform s fun _ => remap s.rom.inv8 idx

end Sys2Proof.Machine
end

