-- ==== Sys2Proof/Machine/Dispatch.lean ====
section
/-! DEFINITION. One arm for each instruction, in the opcode map's order (spec/30_encoding.md R66). -/

namespace Sys2Proof.Machine

def exec (i : Instr) (s : State) : Host.Outcome State Fault Refusal :=
  match i with
  | .unpk565 scaled => Sys2Proof.Machine.execUnpk565 scaled s
  | .pk565 scaled bias => Sys2Proof.Machine.execPk565 scaled bias s
  | .pkep32 => Sys2Proof.Machine.execPkep32 s
  | .unpkep32 idx => Sys2Proof.Machine.execUnpkep32 idx s
  | .pkep16 => Sys2Proof.Machine.execPkep16 s
  | .unpkep16 idx => Sys2Proof.Machine.execUnpkep16 idx s
  | .pal1 rnd => Sys2Proof.Machine.execPal1 rnd s
  | .palnv => Sys2Proof.Machine.execPalnv s
  | .aramp => Sys2Proof.Machine.execAramp s
  | .arampq => Sys2Proof.Machine.execArampq s
  | .d1fl idx => Sys2Proof.Machine.execD1fl idx s
  | .d1tl idx => Sys2Proof.Machine.execD1tl idx s
  | .d5fl idx => Sys2Proof.Machine.execD5fl idx s
  | .d5tl idx => Sys2Proof.Machine.execD5tl idx s
  | .inv6 idx => Sys2Proof.Machine.execInv6 idx s
  | .inv8 idx => Sys2Proof.Machine.execInv8 idx s
  | .geta3 scaled x y => Sys2Proof.Machine.execGeta3 scaled x y s
  | .seta3 scaled x y => Sys2Proof.Machine.execSeta3 scaled x y s
  | .gcep fmt => Sys2Proof.Machine.execGcep fmt s
  | .scep fmt => Sys2Proof.Machine.execScep fmt s
  | .gcsel fmt x y => Sys2Proof.Machine.execGcsel fmt x y s
  | .scsel fmt x y => Sys2Proof.Machine.execScsel fmt x y s
  | .gaep fmt => Sys2Proof.Machine.execGaep fmt s
  | .saep fmt => Sys2Proof.Machine.execSaep fmt s
  | .gasel fmt x y => Sys2Proof.Machine.execGasel fmt x y s
  | .sasel fmt x y => Sys2Proof.Machine.execSasel fmt x y s
  | .dect fmt x y rnd => Sys2Proof.Machine.execDect fmt x y rnd s
  | .decb fmt rnd => Sys2Proof.Machine.execDecb fmt rnd s
  | .fbpp fmt => Sys2Proof.Machine.execFbpp fmt s
  | .falpha fmt => Sys2Proof.Machine.execFalpha fmt s
  | .fblk fmt => Sys2Proof.Machine.execFblk fmt s

end Sys2Proof.Machine
end

