-- ==== Sys2Proof/Machine/Step.lean ====
section
/-! DEFINITION. One step of the unit (spec/70_reset_and_hazards.md R260, R266): one move of the host and the unit's
answer to it. -/

namespace Sys2Proof.Machine

/-- With no move of the host the unit is idle; reset clears it; a request is decoded (spec/30_encoding.md R68) and then
runs, or faults at decode. One step takes a move whole (log entry 6), and the request's fields and operands are those of
one CMD (log entry 8). -/
def step (s : State) : Host.Outcome State Fault Refusal :=
  match s.hostMoves with
  | [] => idleStep s
  | .reset _ :: _ => resetStep s
  | .request q :: _ =>
    match decode q.cmd with
    | .ok i => exec i s
    | .error code => raiseAtDecode code s

/-- s with the command word of the opcode table's numbering in the request that the host presents next: a request that
stands there already keeps its operands; otherwise one with zero operands is presented first (log entry 1). -/
def State.withFetchWord (s : State) (nbits w : Nat) : State :=
  { s with hostMoves := presentWord (tableWord nbits w) s.hostMoves }

end Sys2Proof.Machine
end

