-- ==== Sys2Proof/Machine/Assembler.lean ====
section
/-! DEFINITION. The assembler notation for requests and its pseudo-instructions (spec/30_encoding.md R69, R70).
It has no effect on the unit: it only writes down a request. What the notation leaves open is in log entry 9. -/

namespace Sys2Proof.Machine

/-- A line of R69 after reading: what it leaves out is none. -/
structure AsmLine where
  mnemonic : List Char
  scaled : Bool
  round : Bool
  fmt : Option Nat
  x : Option Nat
  y : Option Nat
  imm : Option Nat
  a : Option Nat
  b : Option Nat
  blk : Option (List Nat)
  deriving DecidableEq, Repr

/-! ## Reading the text -/

/-- The pieces of a text between the characters that separate. -/
def splitText (sep : Char → Bool) : List Char → List (List Char)
  | [] => [[]]
  | c :: cs =>
    match splitText sep cs with
    | [] => [[c]]
    | w :: ws => if sep c then [] :: w :: ws else (c :: w) :: ws

/-- The pieces that are not empty. -/
def wordsOf (sep : Char → Bool) (cs : List Char) : List (List Char) := (splitText sep cs).filter fun w => !w.isEmpty

def digitOf (c : Char) : Option Nat :=
  if '0' ≤ c ∧ c ≤ '9' then some (c.toNat - '0'.toNat)
  else if 'a' ≤ c ∧ c ≤ 'f' then some (c.toNat - 'a'.toNat + 10)
  else if 'A' ≤ c ∧ c ≤ 'F' then some (c.toNat - 'A'.toNat + 10)
  else none

/-- The value of the digits in a base, after the value read so far. -/
def digitsFrom (base : Nat) : Nat → List Char → Option Nat
  | n, [] => some n
  | n, c :: cs =>
    match digitOf c with
    | some d => if d < base then digitsFrom base (n * base + d) cs else none
    | none => none

def numeral (base : Nat) (cs : List Char) : Option Nat := if cs.isEmpty then none else digitsFrom base 0 cs

/-- "A numeric value is decimal, or hex with a 0x prefix." DESIGN CHOICE, safe (log entry 9): it has one digit or more,
leading zeros count for nothing, and the x of the prefix is lower-case. -/
def number : List Char → Option Nat
  | '0' :: 'x' :: cs => numeral 16 cs
  | cs => numeral 10 cs

/-- The tag of a flavor's name (R64), or a tag written as a number. -/
def flavorTag (cs : List Char) : Option Nat :=
  if cs = "DXT1".toList then some 0
  else if cs = "DXT1A".toList then some 1
  else if cs = "DXT3".toList then some 2
  else if cs = "DXT5".toList then some 3
  else if cs = "DXT5A".toList then some 4
  else number cs

/-- Fills in what a line says once; a second time is refused. -/
def fillOnce {α : Type} (old new : Option α) : Option (Option α) :=
  match old, new with
  | none, some v => some (some v)
  | _, _ => none

/-- One key=value of the part before the semicolon. DESIGN CHOICE, safe (log entry 9): the fields come in any order, x and
y also one without the other, and imm, bias and idx are one key whatever the mnemonic is. -/
def readField (line : AsmLine) (word : List Char) : Option AsmLine :=
  match splitText (· == '=') word with
  | [key, value] =>
    if key = "fmt".toList then (fillOnce line.fmt (flavorTag value)).map fun v => { line with fmt := v }
    else if key = "x".toList then (fillOnce line.x (number value)).map fun v => { line with x := v }
    else if key = "y".toList then (fillOnce line.y (number value)).map fun v => { line with y := v }
    else if key = "imm".toList ∨ key = "bias".toList ∨ key = "idx".toList then
      (fillOnce line.imm (number value)).map fun v => { line with imm := v }
    else none
  | _ => none

/-- The bytes of a block, each in hex without a prefix. DESIGN CHOICE, safe (log entry 9): a byte has any number of hex
digits, of either case, with a value below 256 (blockOfBytes), and there may be no byte at all. -/
def readBytes : List (List Char) → Option (List Nat)
  | [] => some []
  | w :: ws =>
    match numeral 16 w, readBytes ws with
    | some n, some ns => some (n :: ns)
    | _, _ => none

/-- One operand of the part after the semicolon. DESIGN CHOICE, safe (log entry 9): the operands a, b and blk come in any
order, whichever of them a line has, with spaces as it likes around a key and a value. -/
def readOperand (line : AsmLine) (item : List Char) : Option AsmLine :=
  match splitText (· == '=') item with
  | [key, value] =>
    match wordsOf (· == ' ') key with
    | [k] =>
      if k = "a".toList ∨ k = "b".toList then
        match wordsOf (· == ' ') value with
        | [v] =>
          if k = "a".toList then (fillOnce line.a (number v)).map fun n => { line with a := n }
          else (fillOnce line.b (number v)).map fun n => { line with b := n }
        | _ => none
      else if k = "blk".toList then
        (fillOnce line.blk (readBytes (wordsOf (· == ' ') value))).map fun n => { line with blk := n }
      else none
    | _ => none
  | _ => none

/-- A suffix is set once; the second time it is refused. -/
def setOnce (old : Bool) : Option Bool := if old then none else some true

/-- The suffixes .S and .R. The grammar [.S][.R] has each at most once, and a suffix that is written twice is refused.
DESIGN CHOICE, safe (log entry 9): they are read in either order. -/
def readSuffixes : AsmLine → List (List Char) → Option AsmLine
  | line, [] => some line
  | line, w :: ws =>
    if w = ['S'] then
      match setOnce line.scaled with
      | some v => readSuffixes { line with scaled := v } ws
      | none => none
    else if w = ['R'] then
      match setOnce line.round with
      | some v => readSuffixes { line with round := v } ws
      | none => none
    else none

/-- Goes through a list of pieces with one of the readers above. -/
def readAll (read : AsmLine → List Char → Option AsmLine) : AsmLine → List (List Char) → Option AsmLine
  | line, [] => some line
  | line, w :: ws =>
    match read line w with
    | some line' => readAll read line' ws
    | none => none

/-- The part before the semicolon: mnemonic, suffixes, fields. DESIGN CHOICE, safe (log entry 9): spaces and commas
separate alike, and leading, trailing and repeated ones count for nothing. -/
def readHead (cs : List Char) : Option AsmLine :=
  match wordsOf (fun c => c == ' ' || c == ',') cs with
  | [] => none
  | w :: fields =>
    match splitText (· == '.') w with
    | [] => none
    | m :: suffixes =>
      let start : AsmLine :=
        { mnemonic := m, scaled := false, round := false, fmt := none, x := none, y := none, imm := none,
          a := none, b := none, blk := none }
      match readSuffixes start suffixes with
      | some line => readAll readField line fields
      | none => none

/-- A whole line. DESIGN CHOICE, safe (log entry 9): a line has at most one semicolon, and what follows it is at least one
operand, with exactly one comma between two of them. -/
def readLine (text : String) : Option AsmLine :=
  match splitText (· == ';') text.toList with
  | [head] => readHead head
  | [head, operands] =>
    match readHead head with
    | some line => readAll readOperand line (splitText (· == ',') operands)
    | none => none
  | _ => none

/-! ## Pseudo-instructions (R70) -/

def withFmt (line : AsmLine) (mnemonic : String) (tag : Nat) : Option AsmLine :=
  (fillOnce line.fmt (some tag)).map fun v => { line with mnemonic := mnemonic.toList, fmt := v }

/-- PK565N: PK565 with S and the bias 128, neither of which the line may set itself. -/
def expandPackNearest (line : AsmLine) : Option AsmLine :=
  match setOnce line.scaled, fillOnce line.imm (some 128) with
  | some s, some v => some { line with mnemonic := "PK565".toList, scaled := s, imm := v }
  | _, _ => none

/-- SWAPEP: PKEP32 with the halves of a 32-bit endpoint word as A and B; a greater word is none. -/
def expandSwap (line : AsmLine) : Option AsmLine :=
  let w := line.a.getD 0
  if w < 0x100000000 then
    (fillOnce line.b (some (w % 0x10000))).map fun v =>
      { line with mnemonic := "PKEP32".toList, a := some (w / 0x10000), b := v }
  else none

/-- The line that a pseudo-instruction stands for; any other line stands for itself.
DESIGN CHOICE, safe (log entry 9): a line that sets itself what the expansion sets (PK565N.S, PK565N with a bias, a DEC
with fmt, SWAPEP with b) and a SWAPEP whose word does not fit the 32 bits of A are refused. -/
def expandPseudo (line : AsmLine) : Option AsmLine :=
  if line.mnemonic = "NOP".toList then withFmt line "FBPP" 0
  else if line.mnemonic = "PK565N".toList then expandPackNearest line
  else if line.mnemonic = "DEC1".toList then withFmt line "DECT" 0
  else if line.mnemonic = "DEC1A".toList then withFmt line "DECT" 1
  else if line.mnemonic = "DEC3".toList then withFmt line "DECT" 2
  else if line.mnemonic = "DEC5".toList then withFmt line "DECT" 3
  else if line.mnemonic = "DEC5A".toList then withFmt line "DECT" 4
  else if line.mnemonic = "DECB1".toList then withFmt line "DECB" 0
  else if line.mnemonic = "DECB1A".toList then withFmt line "DECB" 1
  else if line.mnemonic = "DECB3".toList then withFmt line "DECB" 2
  else if line.mnemonic = "DECB5".toList then withFmt line "DECB" 3
  else if line.mnemonic = "DECB5A".toList then withFmt line "DECB" 4
  else if line.mnemonic = "SWAPEP".toList then expandSwap line
  else some line

/-! ## The request of a line -/

/-- The OP of a mnemonic (R66). -/
def opOfMnemonic : List (String × BitVec 6) :=
  [("UNPK565", 0x01), ("PK565", 0x02), ("PKEP32", 0x03), ("UNPKEP32", 0x04), ("PKEP16", 0x05), ("UNPKEP16", 0x06),
    ("PAL1", 0x08), ("PALNV", 0x09), ("ARAMP", 0x0A), ("ARAMPQ", 0x0B)] ++
  [("D1FL", 0x10), ("D1TL", 0x11), ("D5FL", 0x12), ("D5TL", 0x13), ("INV6", 0x14), ("INV8", 0x15), ("GETA3", 0x18),
    ("SETA3", 0x19)] ++
  [("GCEP", 0x20), ("SCEP", 0x21), ("GCSEL", 0x22), ("SCSEL", 0x23), ("GAEP", 0x24), ("SAEP", 0x25), ("GASEL", 0x26),
    ("SASEL", 0x27), ("DECT", 0x28), ("DECB", 0x29), ("FBPP", 0x30), ("FALPHA", 0x31), ("FBLK", 0x32)]

def findOp (mnemonic : List Char) : List (String × BitVec 6) → Option (BitVec 6)
  | [] => none
  | (name, op) :: rest => if name.toList = mnemonic then some op else findOp mnemonic rest

/-- A value of a field or an operand of n bits, 0 where the line leaves it out; none where it does not fit. -/
def fitBits (n : Nat) (v : Option Nat) : Option (BitVec n) :=
  if v.getD 0 < 2 ^ n then some (BitVec.ofNat n (v.getD 0)) else none

/-- The block of a line's bytes, byte 0 first, the bytes left out 0. -/
def blockOfBytes : List Nat → Option Block
  | [] => some 0
  | n :: ns =>
    match blockOfBytes ns with
    | some rest => if n < 256 ∧ ns.length < 16 then some (rest <<< 8 ||| BitVec.ofNat 128 n) else none
    | none => none

/-- The request of a line whose pseudo-instruction is expanded. The fields go where the line says, whether the operation
uses them or not: the unit, not the assembler, answers RESERVED_FIELD. -/
def requestOf (op : BitVec 6) (line : AsmLine) : Option Request :=
  match fitBits 4 line.fmt, fitBits 2 line.x, fitBits 2 line.y, fitBits 8 line.imm with
  | some fmt, some x, some y, some imm =>
    match fitBits 32 line.a, fitBits 32 line.b, blockOfBytes (line.blk.getD []) with
    | some a, some b, some blk =>
      some { cmd := assembleFields op line.scaled line.round x y fmt imm, a := a, b := b, blk := blk }
    | _, _, _ => none
  | _, _, _, _ => none

/-- The assembler. -/
def assembleLine (text : String) : Option Request :=
  match readLine text with
  | some line =>
    match expandPseudo line with
    | some line' =>
      match findOp line'.mnemonic opOfMnemonic with
      | some op => requestOf op line'
      | none => none
    | none => none
  | none => none

end Sys2Proof.Machine
end

