-- ==== Sys2Proof/Machine/Run.lean ====
section
/-! DEFINITION. What becomes of the requests of a run (spec/70_reset_and_hazards.md R260, R266, R268). -/

namespace Sys2Proof.Machine

/-- What becomes of one request. -/
inductive Served where
  /-- It has its response (R266). -/
  | answered (q : Request) (resp : Response)
  /-- It was in progress, and reset discarded it without a response (R260). -/
  | discarded (q : Request)
  /-- It stood at a faulted unit, which does not accept it, until reset (spec/60_exceptions.md R226). -/
  | notAccepted (q : Request)
  deriving DecidableEq, Repr

/-- The request of an entry. -/
def Served.request : Served → Request
  | .answered q _ => q
  | .discarded q => q
  | .notAccepted q => q

/-- The request that a move presents, if it presents one. -/
def HostMove.presents : HostMove → Option Request
  | .request q => some q
  | .reset inProgress => inProgress

/-- What a step from s to t does to the request of its move, if the move has one. -/
def servedBy (s t : State) : List Served :=
  match s.hostMoves, t.response with
  | .request q :: _, some resp => [.answered q resp]
  | .reset (some q) :: _, _ => if statusFaulted s.status then [.notAccepted q] else [.discarded q]
  | _, _ => []

/-- A run of n steps: the state it ends in and what became of its requests, in order; none where it stops. -/
def serve : Nat → State → Option (State × List Served)
  | 0, s => some (s, [])
  | n + 1, s =>
    match step s with
    | .next t => (serve n t).map fun p => (p.1, servedBy s t ++ p.2)
    | .fault _ => none
    | .refused _ => none

end Sys2Proof.Machine
end

