-- ==== Sys2Proof/Machine/Units.lean ====
section
/-! DEFINITION. Any number of units side by side (spec/20_memory.md R53; spec/60_exceptions.md R233): a list of states,
each with its own host, and a schedule that names which unit moves next. -/

namespace Sys2Proof.Machine

/-- The unit after its next step; a unit that is stuck stays as it is and stops no other (R233; log entry 10). -/
def advance (s : State) : State :=
  match step s with
  | .next s' => s'
  | .fault _ => s
  | .refused _ => s

/-- The units after the steps of a schedule, each entry the number of the unit that moves. -/
def runUnits : List Nat → List State → List State
  | [], us => us
  | n :: ns, us => runUnits ns (us.modify n advance)

end Sys2Proof.Machine
end

