-- ==== Sys2Proof/Safety.lean ====
section
/-! DEFINITION. What a request, an answer, a fault and a good state are, in the terms that the statements use. The
numbers are those of the spec's own formulas on natural numbers (spec/00_scope.md R8), written apart from the bit
operations of the machine. -/

namespace Sys2Proof.Safety

open Sys2Proof.Machine

/-! ## Requests and outcomes -/

/-- The host presents the request q, and then makes the moves rest. -/
def Presents (s : State) (q : Request) (rest : List HostMove) : Prop := s.hostMoves = .request q :: rest

/-- The host presents q to a unit that is not faulted (spec/70_reset_and_hazards.md R266). -/
def Ready (s : State) (q : Request) (rest : List HostMove) : Prop :=
  Presents s q rest ∧ s.status.getLsbD 0 = false

/-- The next state gives the response resp to the request, and nothing else of the unit changes: not STATUS and not one
table entry. -/
def AnswersWith (o : Host.Outcome State Fault Refusal) (s : State) (rest : List HostMove) (resp : Response) : Prop :=
  o = .next { rom := s.rom, status := s.status, response := some resp, hostMoves := rest }

/-- An answer in R alone: its value is n and every other output is 0 (spec/10_state.md R23). -/
def AnswersScalar (o : Host.Outcome State Fault Refusal) (s : State) (rest : List HostMove) (n : Nat) : Prop :=
  ∃ r : Word, r.toNat = n ∧
    AnswersWith o s rest { r := r, cnt := 0, v := Vector.replicate 16 0, bo := 0, fault := false, fcode := 0 }

/-- An answer in CNT and V alone: CNT is n, V[i] is f i, and every other output is 0. -/
def AnswersVector (o : Host.Outcome State Fault Refusal) (s : State) (rest : List HostMove) (n : Nat) (f : Nat → Nat) :
    Prop :=
  ∃ (cnt : BitVec 4) (v : Vector Word 16), cnt.toNat = n ∧ (∀ (i : Nat) (h : i < 16), v[i].toNat = f i) ∧
    AnswersWith o s rest { r := 0, cnt := cnt, v := v, bo := 0, fault := false, fcode := 0 }

/-- An answer in BO alone, of which P holds; every other output is 0. -/
def AnswersBlock (o : Host.Outcome State Fault Refusal) (s : State) (rest : List HostMove) (P : Block → Prop) : Prop :=
  ∃ bo : Block, P bo ∧
    AnswersWith o s rest { r := 0, cnt := 0, v := Vector.replicate 16 0, bo := bo, fault := false, fcode := 0 }

/-- The number of a fault code (spec/60_exceptions.md R221). -/
def codeNumber : FaultCode → Nat
  | .illegalOpcode => 1
  | .reservedField => 2
  | .badFormat => 3
  | .badIndex => 4
  | .valueRange => 5

/-- Fault entry (spec/60_exceptions.md R225): FAULT = 1 and FCODE with every data output 0, STATUS the number
1 + 16*FCODE + 256*FOP, and the tables as they were. -/
def Faults (o : Host.Outcome State Fault Refusal) (s : State) (rest : List HostMove) (q : Request) (code : FaultCode) :
    Prop :=
  o = .next
    { rom := s.rom
      status := BitVec.ofNat 32 (1 + 16 * codeNumber code + 256 * (q.cmd.toNat % 64))
      response := some
        { r := 0, cnt := 0, v := Vector.replicate 16 0, bo := 0, fault := true,
          fcode := BitVec.ofNat 4 (codeNumber code) }
      hostMoves := rest }

/-- What follows from the check that a request fails: fault entry with its code, or, where it fails none, a normal
response with FAULT and FCODE 0 that changes nothing else. -/
def FaultsOrAnswers (o : Host.Outcome State Fault Refusal) (s : State) (rest : List HostMove) (q : Request)
    (failed : Option FaultCode) : Prop :=
  match failed with
  | some code => Faults o s rest q code
  | none => ∃ resp : Response, resp.fault = false ∧ resp.fcode = 0 ∧ AnswersWith o s rest resp

/-- The response that a step leaves, if it leaves one. -/
def answered (o : Host.Outcome State Fault Refusal) : Option Response :=
  match o with
  | .next t => t.response
  | .fault _ => none
  | .refused _ => none

/-- The run of n steps from s is finished (spec/70_reset_and_hazards.md R268): the host has no more moves, every request
that it presented has its response, and the unit is not faulted. A request in progress that reset discarded has none, so
that its run is not finished. DEDUCED from spec/95_test_vectors.md L3.3, which is finished with a request that the
faulted unit did not accept (log entry 12): such a request is not waited for. -/
def Finished (n : Nat) (s : State) : Prop :=
  ∃ t served, serve n s = some (t, served) ∧ t.hostMoves = [] ∧ t.status.getLsbD 0 = false ∧
    served.map Served.request = s.hostMoves.filterMap HostMove.presents ∧
    ∀ e ∈ served, (∃ q resp, e = .answered q resp) ∨ ∃ q, e = .notAccepted q

/-! ## The invariant -/

/-- What holds of every state that a run reaches: the tables are the constants (spec/10_state.md R26), STATUS has its
reserved bits 0 and is 0 until a fault (R25), and the last response, if there is one, agrees with STATUS
(spec/60_exceptions.md R225) and has a legal CNT (R30). -/
def UnitInv (s : State) : Prop :=
  s.rom = romConstants ∧
  s.status.extractLsb' 1 3 = 0 ∧ s.status.extractLsb' 14 18 = 0 ∧
  (s.status.getLsbD 0 = false → s.status = 0) ∧
  (s.status.getLsbD 0 = true → 1 ≤ (s.status.extractLsb' 4 4).toNat ∧ (s.status.extractLsb' 4 4).toNat ≤ 5) ∧
  (s.response = none → s.status = 0) ∧
  ∀ r, s.response = some r →
    r.fault = s.status.getLsbD 0 ∧ r.fcode = s.status.extractLsb' 4 4 ∧ r.cnt.toNat ∈ [0, 3, 4, 6, 8] ∧
    (r.fault = true → r.r = 0 ∧ r.cnt = 0 ∧ r.v = Vector.replicate 16 0 ∧ r.bo = 0)

/-! ## The block in numbers (spec/20_memory.md) -/

/-- BlkByte(i) (R41). -/
def blockByte (b : Block) (i : Nat) : Nat := b.toNat / 256 ^ i % 256

/-- BlkLE(o, n) (R41). -/
def blockLE (b : Block) (o n : Nat) : Nat := ∑ k ∈ Finset.range n, blockByte b (o + k) * 256 ^ k

/-- The color selector of texel t of the color block at o (R44). -/
def colorSelector (b : Block) (o t : Nat) : Nat := blockLE b (o + 4) 4 / 4 ^ t % 4

/-- The alpha selector of texel t (R48). -/
def alphaSelector (b : Block) (t : Nat) : Nat := blockLE b 2 6 / 8 ^ t % 8

/-- The explicit alpha of texel (x, y) (R46). -/
def alphaNibble (b : Block) (x y : Nat) : Nat := blockByte b (y * 2 + x / 2) / 16 ^ (x % 2) % 16

/-- The texel number t = y*4 + x (spec/00_scope.md R11). -/
def texelAt (x y : BitVec 2) : Nat := y.toNat * 4 + x.toNat

/-! ## Colors in numbers (spec/00_scope.md R10; spec/41_packing.md R100, R101) -/

def rgbaNat (r g b a : Nat) : Nat := r + 256 * g + 65536 * b + 16777216 * a
def redOf (p : Nat) : Nat := p / 2048 % 32
def greenOf (p : Nat) : Nat := p / 32 % 64
def blueOf (p : Nat) : Nat := p % 32

/-- A 5-bit channel replicated to 8 bits. -/
def wide5 (c : Nat) : Nat := 8 * c + c / 4

/-- A 6-bit channel replicated to 8 bits. -/
def wide6 (c : Nat) : Nat := 4 * c + c / 16

/-- UNPK565 with S = 1. -/
def wideColor (p a : Nat) : Nat := rgbaNat (wide5 (redOf p)) (wide6 (greenOf p)) (wide5 (blueOf p)) a

/-- One channel of PK565 with S = 1. -/
def quantised (c max bias : Nat) : Nat := min ((c * max + bias) / 255) max

/-- Two colors mixed channel by channel, alpha 255. -/
def mixColors (f : Nat → Nat → Nat) (e0 e1 : Nat) : Nat :=
  rgbaNat (f (wide5 (redOf e0)) (wide5 (redOf e1))) (f (wide6 (greenOf e0)) (wide6 (greenOf e1)))
    (f (wide5 (blueOf e0)) (wide5 (blueOf e1))) 255

/-- Entry i of the DXT1 palette (spec/42_ramps.md R121 to R123). -/
def paletteEntry (e0 e1 k i : Nat) : Nat :=
  if i = 0 then wideColor e0 255
  else if i = 1 then wideColor e1 255
  else if e1 < e0 then
    if i = 2 then mixColors (fun c0 c1 => (2 * c0 + c1 + k) / 3) e0 e1
    else mixColors (fun c0 c1 => (c0 + 2 * c1 + k) / 3) e0 e1
  else if i = 2 then mixColors (fun c0 c1 => (c0 + c1 + k) / 2) e0 e1
  else 0

/-- The 8-value formula at entry i (spec/42_ramps.md R128, as spec/10_state.md R29 writes it). -/
def ramp8 (l h i : Nat) : Nat := if i = 0 then l else if i = 1 then h else ((8 - i) * l + (i - 1) * h) / 7

/-- The 6-value formula at entry i (the same rules). -/
def ramp6 (l h i : Nat) : Nat :=
  if i = 0 then l else if i = 1 then h else if i = 6 then 0 else if i = 7 then 255
  else ((6 - i) * l + (i - 1) * h) / 5

/-- Entry i of the alpha ramp (spec/42_ramps.md R127, R128). -/
def rampEntry (l h i : Nat) : Nat := if h < l then ramp8 l h i else ramp6 l h i

/-- k of the RND bit (spec/42_ramps.md R120). -/
def addend (rnd : Bool) : Nat := if rnd then 1 else 0

/-- colorTexel(o, t, k) (spec/45_block_mux.md R180). -/
def colorTexelNat (b : Block) (o t k : Nat) : Nat :=
  paletteEntry (blockLE b o 2) (blockLE b (o + 2) 2) k (colorSelector b o t)

/-- alphaTexel(t) (spec/45_block_mux.md R181). -/
def alphaTexelNat (b : Block) (t : Nat) : Nat := rampEntry (blockByte b 0) (blockByte b 1) (alphaSelector b t)

/-- The decoded texel t of a known flavor (spec/45_block_mux.md R182). -/
def texelNat (f : Flavor) (b : Block) (t k : Nat) : Nat :=
  match f with
  | .dxt1 | .dxt1a => colorTexelNat b 0 t k
  | .dxt3 => colorTexelNat b 8 t k % 16777216 + 16777216 * (17 * alphaNibble b (t % 4) (t / 4))
  | .dxt5 => colorTexelNat b 8 t k % 16777216 + 16777216 * alphaTexelNat b t
  | .dxt5a => alphaTexelNat b t
  | .unknown _ => 0

/-! ## Flavors (spec/45_block_mux.md R170, R171; spec/46_format_metadata.md R200) -/

/-- The base of the color block of the flavors that have one. -/
def baseOf : Flavor → Option Nat
  | .dxt1 => some 0
  | .dxt1a => some 0
  | .dxt3 => some 8
  | .dxt5 => some 8
  | .dxt5a => none
  | .unknown _ => none

/-- The flavors with an interpolated alpha sub-block. -/
def HasRamp (f : Flavor) : Prop := f = .dxt5 ∨ f = .dxt5a

/-- The known flavors. -/
def known : Flavor → Bool
  | .unknown _ => false
  | _ => true

/-- Bits per pixel, block bytes and declared alpha of a known flavor (R200). -/
def metadata : Flavor → Nat × Nat × Nat
  | .dxt1 => (4, 8, 0)
  | .dxt1a => (4, 8, 1)
  | .dxt3 => (8, 16, 1)
  | .dxt5 => (8, 16, 1)
  | .dxt5a => (4, 8, 1)
  | .unknown _ => (0, 0, 0)

/-! ## Which checks a command fails -/

/-- The check that a decoded operation fails, if it fails one, in the order of spec/60_exceptions.md R224: BAD_FORMAT,
BAD_INDEX, VALUE_RANGE (R221, R222). -/
def operandFault (i : Instr) (q : Request) : Option FaultCode :=
  match i with
  | .pkep32 => if 65535 < q.a.toNat ∨ 65535 < q.b.toNat then some .valueRange else none
  | .pkep16 => if 255 < q.a.toNat ∨ 255 < q.b.toNat then some .valueRange else none
  | .unpkep32 idx | .unpkep16 idx => if 1 < idx.toNat then some .badIndex else none
  | .d1fl idx | .d1tl idx => if 4 ≤ idx.toNat then some .badIndex else none
  | .d5fl idx | .d5tl idx | .inv6 idx | .inv8 idx => if 8 ≤ idx.toNat then some .badIndex else none
  | .seta3 scaled _ _ => if (if scaled then 255 else 15) < q.a.toNat then some .valueRange else none
  | .gcep f | .scep f | .gcsel f _ _ => if baseOf f = none then some .badFormat else none
  | .scsel f _ _ =>
    if baseOf f = none then some .badFormat else if 3 < q.a.toNat then some .valueRange else none
  | .gaep f | .saep f | .gasel f _ _ => if f = .dxt5 ∨ f = .dxt5a then none else some .badFormat
  | .sasel f _ _ =>
    if f = .dxt5 ∨ f = .dxt5a then (if 7 < q.a.toNat then some .valueRange else none) else some .badFormat
  | .dect f _ _ _ | .decb f _ | .fbpp f | .falpha f | .fblk f =>
    if known f then none else some .badFormat
  | .unpk565 _ | .pk565 _ _ | .pal1 _ | .palnv | .aramp | .arampq | .geta3 _ _ _ => none

/-- The bits of CMD that an operation uses besides OP, from the "fields used" column of spec/30_encoding.md R66 and the
places of R61; none for an unassigned OP. -/
def usedFields (op : Nat) : Option Word :=
  let s : Word := 0x40
  let rnd : Word := 0x80
  let xy : Word := 0xF00
  let fmt : Word := 0xF000
  let imm : Word := 0xFF0000
  if op = 0x01 then some s
  else if op = 0x02 then some (s ||| imm)
  else if op ∈ [0x03, 0x05, 0x09, 0x0A, 0x0B] then some 0
  else if op ∈ [0x04, 0x06, 0x10, 0x11, 0x12, 0x13, 0x14, 0x15] then some imm
  else if op = 0x08 then some rnd
  else if op ∈ [0x18, 0x19] then some (s ||| xy)
  else if op ∈ [0x20, 0x21, 0x24, 0x25, 0x30, 0x31, 0x32] then some fmt
  else if op ∈ [0x22, 0x23, 0x26, 0x27] then some (fmt ||| xy)
  else if op = 0x28 then some (fmt ||| xy ||| rnd)
  else if op = 0x29 then some (fmt ||| rnd)
  else none

/-- FMT is not admitted by the operation (spec/45_block_mux.md R171; spec/46_format_metadata.md R201 to R203). -/
def formatFails (op fmt : Nat) : Bool :=
  if op ∈ [0x20, 0x21, 0x22, 0x23] then 3 < fmt
  else if op ∈ [0x24, 0x25, 0x26, 0x27] then fmt ∉ [3, 4]
  else if op ∈ [0x28, 0x29, 0x30, 0x31, 0x32] then 4 < fmt
  else false

/-- IMM8 is out of the operation's range (spec/60_exceptions.md R221). -/
def indexFails (op imm : Nat) : Bool :=
  if op ∈ [0x04, 0x06] then 1 < imm
  else if op ∈ [0x10, 0x11] then 4 ≤ imm
  else if op ∈ [0x12, 0x13, 0x14, 0x15] then 8 ≤ imm
  else false

/-- A or B is out of the operation's range (spec/60_exceptions.md R221). -/
def valueFails (op s a b : Nat) : Bool :=
  if op = 0x03 then 0xFFFF < a ∨ 0xFFFF < b
  else if op = 0x05 then 255 < a ∨ 255 < b
  else if op = 0x19 then (if s = 0 then 15 < a else 255 < a)
  else if op = 0x23 then 3 < a
  else if op = 0x27 then 7 < a
  else false

/-- The first check that a request fails, read off its raw words in the order of spec/60_exceptions.md R224. -/
def requestFault (q : Request) : Option FaultCode :=
  let op := q.cmd.toNat % 64
  match usedFields op with
  | none => some .illegalOpcode
  | some used =>
    if q.cmd &&& ~~~(0x3F ||| used) ≠ 0 then some .reservedField
    else if formatFails op (q.cmd.toNat / 4096 % 16) then some .badFormat
    else if indexFails op (q.cmd.toNat / 65536 % 256) then some .badIndex
    else if valueFails op (q.cmd.toNat / 64 % 2) q.a.toNat q.b.toNat then some .valueRange
    else none

/-- The mask and match columns of the opcode map (spec/30_encoding.md R66). -/
def opcodeRows : List (Word × Word) :=
  [(0xFFFFFFBF, 0x01), (0xFF00FFBF, 0x02), (0xFFFFFFFF, 0x03), (0xFF00FFFF, 0x04), (0xFFFFFFFF, 0x05),
    (0xFF00FFFF, 0x06), (0xFFFFFF7F, 0x08), (0xFFFFFFFF, 0x09), (0xFFFFFFFF, 0x0A), (0xFFFFFFFF, 0x0B)] ++
  [(0xFF00FFFF, 0x10), (0xFF00FFFF, 0x11), (0xFF00FFFF, 0x12), (0xFF00FFFF, 0x13), (0xFF00FFFF, 0x14),
    (0xFF00FFFF, 0x15), (0xFFFFF0BF, 0x18), (0xFFFFF0BF, 0x19)] ++
  [(0xFFFF0FFF, 0x20), (0xFFFF0FFF, 0x21), (0xFFFF00FF, 0x22), (0xFFFF00FF, 0x23), (0xFFFF0FFF, 0x24),
    (0xFFFF0FFF, 0x25), (0xFFFF00FF, 0x26), (0xFFFF00FF, 0x27), (0xFFFF007F, 0x28), (0xFFFF0F7F, 0x29),
    (0xFFFF0FFF, 0x30), (0xFFFF0FFF, 0x31), (0xFFFF0FFF, 0x32)]

/-! ## Which inputs an operation reads (spec/10_state.md R21) -/

/-- How many low bits of A the operation's rule reads; a range check reads all 32 (spec/30_encoding.md R62). -/
def bitsOfA : Instr → Nat
  | .unpk565 _ | .unpkep16 _ | .pal1 _ | .palnv | .saep _ => 16
  | .pk565 _ _ => 24
  | .pkep32 | .unpkep32 _ | .pkep16 | .seta3 _ _ _ | .scep _ | .scsel _ _ _ | .sasel _ _ _ => 32
  | .aramp | .arampq => 8
  | .d1fl _ | .d1tl _ | .d5fl _ | .d5tl _ | .inv6 _ | .inv8 _ => 0
  | .geta3 _ _ _ | .gcep _ | .gcsel _ _ _ | .gaep _ | .gasel _ _ _ | .dect _ _ _ _ | .decb _ _ => 0
  | .fbpp _ | .falpha _ | .fblk _ => 0

/-- How many low bits of B the operation's rule reads. -/
def bitsOfB : Instr → Nat
  | .unpk565 _ | .pkep32 | .pkep16 => 32
  | .pal1 _ | .palnv => 16
  | .aramp | .arampq => 8
  | .pk565 _ _ | .unpkep32 _ | .unpkep16 _ => 0
  | .d1fl _ | .d1tl _ | .d5fl _ | .d5tl _ | .inv6 _ | .inv8 _ => 0
  | .geta3 _ _ _ | .seta3 _ _ _ | .gcep _ | .scep _ | .gcsel _ _ _ | .scsel _ _ _ | .gaep _ | .saep _ => 0
  | .gasel _ _ _ | .sasel _ _ _ | .dect _ _ _ _ | .decb _ _ | .fbpp _ | .falpha _ | .fblk _ => 0

/-- How many low bytes of a block a flavor has (spec/46_format_metadata.md R203); an unknown flavor has none. -/
def blockBytes (f : Flavor) : Nat := (metadata f).2.1

/-- The bits of the color texel t of the color block at o: both endpoints and the selector (spec/45_block_mux.md
R180). -/
def colorTexelFields (o t : Nat) : List (Nat × Nat) := [(8 * o, 32), (8 * (o + 4) + 2 * t, 2)]

/-- The bits of the alpha texel t: both endpoints and the selector (spec/45_block_mux.md R181). -/
def alphaTexelFields (t : Nat) : List (Nat × Nat) := [(0, 16), (16 + 3 * t, 3)]

/-- The bits of the explicit alpha of texel (x, y) (spec/44_dxt3_alpha.md R160). -/
def nibbleField (x y : BitVec 2) : Nat × Nat := (8 * (y.toNat * 2 + x.toNat / 2) + 4 * (x.toNat % 2), 4)

/-- The fields of BLK that the operation's rule reads, each as its lowest bit and its width. An operation that writes BO
passes all of BLK to it; a flavor that the operation does not admit is turned down before BLK is read. -/
def fieldsOfBlk : Instr → List (Nat × Nat)
  | .geta3 _ x y => [nibbleField x y]
  | .seta3 _ _ _ | .scep _ | .scsel _ _ _ | .saep _ | .sasel _ _ _ => [(0, 128)]
  | .gcep f => match baseOf f with | some o => [(8 * o, 32)] | none => []
  | .gcsel f x y => match baseOf f with | some o => [(8 * (o + 4) + 2 * texelAt x y, 2)] | none => []
  | .gaep f => if f = .dxt5 ∨ f = .dxt5a then [(0, 16)] else []
  | .gasel f x y => if f = .dxt5 ∨ f = .dxt5a then [(16 + 3 * texelAt x y, 3)] else []
  | .dect f x y _ =>
    match f with
    | .dxt1 | .dxt1a => colorTexelFields 0 (texelAt x y)
    | .dxt3 => nibbleField x y :: colorTexelFields 8 (texelAt x y)
    | .dxt5 => alphaTexelFields (texelAt x y) ++ colorTexelFields 8 (texelAt x y)
    | .dxt5a => alphaTexelFields (texelAt x y)
    | .unknown _ => []
  | .decb f _ => [(0, 8 * blockBytes f)]
  | .unpk565 _ | .pk565 _ _ | .pkep32 | .unpkep32 _ | .pkep16 | .unpkep16 _ => []
  | .pal1 _ | .palnv | .aramp | .arampq => []
  | .d1fl _ | .d1tl _ | .d5fl _ | .d5tl _ | .inv6 _ | .inv8 _ => []
  | .fbpp _ | .falpha _ | .fblk _ => []

/-- Two requests agree on everything that the operation's rule reads. -/
def AgreeFor (i : Instr) (q q' : Request) : Prop :=
  q.a.toNat % 2 ^ bitsOfA i = q'.a.toNat % 2 ^ bitsOfA i ∧
  q.b.toNat % 2 ^ bitsOfB i = q'.b.toNat % 2 ^ bitsOfB i ∧
  ∀ p ∈ fieldsOfBlk i, q.blk.toNat / 2 ^ p.1 % 2 ^ p.2 = q'.blk.toNat / 2 ^ p.1 % 2 ^ p.2

/-! ## The notation of an instruction (spec/30_encoding.md R66, R69) -/

/-- A line with a mnemonic and nothing else. -/
def bareLine (mnemonic : String) : AsmLine :=
  { mnemonic := mnemonic.toList, scaled := false, round := false, fmt := none, x := none, y := none, imm := none,
    a := none, b := none, blk := none }

/-- The number of a flavor in a line. -/
def fmtOf (f : Flavor) : Option Nat := some (tagOfFlavor f).toNat

/-- The line of an instruction, with the mnemonic and the used fields of its row of R66 and no operands. -/
def lineOf : Instr → AsmLine
  | .unpk565 s => { bareLine "UNPK565" with scaled := s }
  | .pk565 s bias => { bareLine "PK565" with scaled := s, imm := some bias.toNat }
  | .pkep32 => bareLine "PKEP32"
  | .unpkep32 idx => { bareLine "UNPKEP32" with imm := some idx.toNat }
  | .pkep16 => bareLine "PKEP16"
  | .unpkep16 idx => { bareLine "UNPKEP16" with imm := some idx.toNat }
  | .pal1 rnd => { bareLine "PAL1" with round := rnd }
  | .palnv => bareLine "PALNV"
  | .aramp => bareLine "ARAMP"
  | .arampq => bareLine "ARAMPQ"
  | .d1fl idx => { bareLine "D1FL" with imm := some idx.toNat }
  | .d1tl idx => { bareLine "D1TL" with imm := some idx.toNat }
  | .d5fl idx => { bareLine "D5FL" with imm := some idx.toNat }
  | .d5tl idx => { bareLine "D5TL" with imm := some idx.toNat }
  | .inv6 idx => { bareLine "INV6" with imm := some idx.toNat }
  | .inv8 idx => { bareLine "INV8" with imm := some idx.toNat }
  | .geta3 s x y => { bareLine "GETA3" with scaled := s, x := some x.toNat, y := some y.toNat }
  | .seta3 s x y => { bareLine "SETA3" with scaled := s, x := some x.toNat, y := some y.toNat }
  | .gcep f => { bareLine "GCEP" with fmt := fmtOf f }
  | .scep f => { bareLine "SCEP" with fmt := fmtOf f }
  | .gcsel f x y => { bareLine "GCSEL" with fmt := fmtOf f, x := some x.toNat, y := some y.toNat }
  | .scsel f x y => { bareLine "SCSEL" with fmt := fmtOf f, x := some x.toNat, y := some y.toNat }
  | .gaep f => { bareLine "GAEP" with fmt := fmtOf f }
  | .saep f => { bareLine "SAEP" with fmt := fmtOf f }
  | .gasel f x y => { bareLine "GASEL" with fmt := fmtOf f, x := some x.toNat, y := some y.toNat }
  | .sasel f x y => { bareLine "SASEL" with fmt := fmtOf f, x := some x.toNat, y := some y.toNat }
  | .dect f x y rnd => { bareLine "DECT" with fmt := fmtOf f, x := some x.toNat, y := some y.toNat, round := rnd }
  | .decb f rnd => { bareLine "DECB" with fmt := fmtOf f, round := rnd }
  | .fbpp f => { bareLine "FBPP" with fmt := fmtOf f }
  | .falpha f => { bareLine "FALPHA" with fmt := fmtOf f }
  | .fblk f => { bareLine "FBLK" with fmt := fmtOf f }

end Sys2Proof.Safety
end

