-- ==== Sys2Proof/Certificates/Slice0/Obligations.lean ====
section
/-! DEFINITION. The statements for the provers. The terms are those of Safety.lean. -/

open Sys2Proof Sys2Proof.Machine Sys2Proof.Safety

/-! ## The command word (spec/30_encoding.md) -/

/-- Words written out from the opcode map and the test vectors (spec/95_test_vectors.md V1 to V9) decode to the
operations that they stand for. A sanity check. -/
def Obligations.WrittenOutWordsDecode : Prop :=
  decode 0x00000041 = .ok (.unpk565 true) ∧
  decode 0x00800042 = .ok (.pk565 true 128) ∧
  decode 0x00010004 = .ok (.unpkep32 1) ∧
  decode 0x00000088 = .ok (.pal1 true) ∧
  decode 0x00070015 = .ok (.inv8 7) ∧
  decode 0x00000E58 = .ok (.geta3 true 2 3) ∧
  decode 0x00003527 = .ok (.sasel .dxt5 1 1) ∧
  decode 0x000016A8 = .ok (.dect .dxt1a 2 1 true) ∧
  decode 0x00007030 = .ok (.fbpp (.unknown 7)) ∧
  decode 0x00000000 = .error .illegalOpcode ∧
  decode 0x00020044 = .error .reservedField

/-- Decoding the word of a well-formed instruction gives it back, with every operand at every value (R61, R66). -/
def Obligations.DecodeAfterEncode : Prop :=
  ∀ i : Instr, i.wf = true → decode (encode i) = .ok i

/-- A word that decodes is the word of the instruction that it decodes to, which is well-formed: no bit is ignored
(R60, R63). -/
def Obligations.EncodeAfterDecode : Prop :=
  ∀ (w : Word) (i : Instr), decode w = .ok i → i.wf = true ∧ encode i = w

/-- R68: a word either selects exactly one row of the opcode map, or selects none and raises one of the two decode
faults; and then the request faults with that code whatever its flavor, its index and its operands are, since their
checks come after. -/
def Obligations.EveryWordSelectsOneRowOrOneFault : Prop :=
  (∀ w : Word,
    ((∃ i, decode w = .ok i) ∧ (opcodeRows.filter fun row => w &&& row.1 = row.2).length = 1) ∨
    ((decode w = .error .illegalOpcode ∨ decode w = .error .reservedField) ∧
      opcodeRows.filter (fun row => w &&& row.1 = row.2) = [])) ∧
  ∀ s q rest code, Ready s q rest → decode q.cmd = .error code → Faults (step s) s rest q code

/-- R67: the unassigned OP values are exactly the ones that the rule lists, and a request with one traps with
ILLEGAL_OPCODE. -/
def Obligations.UnassignedOpcodesTrap : Prop :=
  (∀ w : Word, decode w = .error .illegalOpcode ↔
    w.toNat % 64 ∈ [0x00, 0x07, 0x0C, 0x0D, 0x0E, 0x0F, 0x16, 0x17, 0x1A, 0x1B, 0x1C, 0x1D, 0x1E, 0x1F, 0x2A, 0x2B,
      0x2C, 0x2D, 0x2E, 0x2F, 0x33, 0x34, 0x35, 0x36, 0x37, 0x38, 0x39, 0x3A, 0x3B, 0x3C, 0x3D, 0x3E, 0x3F]) ∧
  ∀ s q rest, Ready s q rest → decode q.cmd = .error .illegalOpcode → Faults (step s) s rest q .illegalOpcode

/-- R63: a command whose OP is assigned and that has a nonzero bit outside OP and the fields that the operation uses
(the reserved byte among them) is not executed and raises RESERVED_FIELD, and no other command does. -/
def Obligations.UnusedFieldsMustBeZero : Prop :=
  (∀ w : Word, decode w = .error .reservedField ↔
    ∃ used, usedFields (w.toNat % 64) = some used ∧ w &&& ~~~(0x3F ||| used) ≠ 0) ∧
  ∀ s q rest, Ready s q rest → decode q.cmd = .error .reservedField → Faults (step s) s rest q .reservedField

/-! ## Steps -/

/-- A step whose request decodes to an instruction is exec of that instruction, which is well-formed: nothing is added
around it (spec/70_reset_and_hazards.md R266; spec/10_state.md R31). -/
def Obligations.StepRunsTheDecodedInstruction : Prop :=
  ∀ s q rest i, Presents s q rest → decode q.cmd = .ok i → step s = exec i s ∧ i.wf = true

/-- Reset sets STATUS to 0, leaves the tables, drops a request in progress without a response and leaves no response
(the last is the model's reading, log entry 3), and a request that follows is accepted; with no move of the host the
unit is idle and nothing changes. -/
def Obligations.ResetAndIdleSteps : Prop :=
  (∀ s inProgress rest, s.hostMoves = .reset inProgress :: rest →
    step s = .next { rom := s.rom, status := 0, response := none, hostMoves := rest }) ∧
  (∀ s inProgress q rest, s.hostMoves = .reset inProgress :: .request q :: rest →
    ∃ t, step s = .next t ∧ Ready t q rest) ∧
  ∀ s : State, s.hostMoves = [] → step s = .next s

/-- While STATUS.FAULTED = 1 a request gets no response and no operation runs: the step, and exec of every instruction,
is the stop stuckUntilReset, which is the model's form of the spec's stuck state (log entry 2). -/
def Obligations.FaultedUnitAcceptsNoRequest : Prop :=
  ∀ s q rest, Presents s q rest → s.status.getLsbD 0 = true →
    step s = .fault .stuckUntilReset ∧ ∀ i, exec i s = .fault .stuckUntilReset

/-- R224 and R266 from the raw words: a request to a unit that is not faulted gets exactly one response. If it fails a
check, the first one in the order of R224 gives the fault; if it fails none, it is a normal response. -/
def Obligations.FirstFailingCheckGivesTheFault : Prop :=
  ∀ s q rest, Ready s q rest → FaultsOrAnswers (step s) s rest q (requestFault q)

/-- R222 and R225 for every operation: it faults exactly when the condition of its own rule holds, fault entry then is
the whole effect, and otherwise the operation answers without a fault and STATUS stays. -/
def Obligations.OperationsFaultExactlyOnTheirConditions : Prop :=
  ∀ i s q rest, Ready s q rest → FaultsOrAnswers (exec i s) s rest q (operandFault i q)

/-- R52: whether a request faults, and with which code, does not depend on the contents of the block. -/
def Obligations.NoBlockContentsFault : Prop :=
  ∀ s s' q rest rest' (blk : Block), Ready s q rest → Ready s' { q with blk := blk } rest' →
    ∀ code, Faults (step s) s rest q code ↔ Faults (step s') s' rest' { q with blk := blk } code

/-- A response depends on the request alone: two units that are not faulted, whatever their earlier responses, give the
same request the same response (spec/10_state.md R24, R32; spec/20_memory.md R51, R53). -/
def Obligations.ResponseDependsOnTheRequestAlone : Prop :=
  ∀ s s' q rest rest', s.rom = s'.rom → Ready s q rest → Ready s' q rest' →
    ∃ resp, answered (step s) = some resp ∧ answered (step s') = some resp

/-- R21, R50 and R62: an input, or a bit of A, B or BLK, outside the fields that an operation's rule reads has no effect
on its response. An operation that writes BO reads all of BLK; every other one reads the fields of fieldsOfBlk, on an
8-byte flavor none of them above byte 7. -/
def Obligations.InputsNotNamedHaveNoEffect : Prop :=
  ∀ i s s' q q' rest rest', s.rom = s'.rom → Ready s q rest → Ready s' q' rest' → AgreeFor i q q' →
    ∃ resp, answered (exec i s) = some resp ∧ answered (exec i s') = some resp

/-- What a step can do to the kept state: the tables never change, and STATUS changes only by reset, to 0, and by fault
entry, with a response that reports the fault (spec/10_state.md R25, R26). -/
def Obligations.StatusChangesOnlyByFaultEntryAndReset : Prop :=
  ∀ s t, step s = .next t →
    t.rom = s.rom ∧
    (t.status = s.status ∨
      (t.status = 0 ∧ ∃ inProgress rest, s.hostMoves = .reset inProgress :: rest) ∨
      ∃ q rest code, Ready s q rest ∧ Faults (step s) s rest q code)

/-- The invariant holds at reset. What it says there is that the tables are the constants and STATUS is 0. -/
def Obligations.InvariantAtReset : Prop := UnitInv State.reset

/-- Every step keeps the invariant. -/
def Obligations.StepKeepsTheInvariant : Prop := ∀ s t, UnitInv s → step s = .next t → UnitInv t

/-- R33: the reset values, with the tables of R27. That no response exists is log entry 3, and that the host has made
no move, the empty hostMoves, is the model's DESIGN CHOICE of log entry 1. -/
def Obligations.ResetValues : Prop :=
  State.reset.status = 0 ∧ State.reset.response = none ∧ State.reset.hostMoves = [] ∧
  State.reset.rom.d1FromLinear.toList.map BitVec.toNat = [0, 2, 3, 1] ∧
  State.reset.rom.d1ToLinear.toList.map BitVec.toNat = [0, 3, 1, 2] ∧
  State.reset.rom.d5FromLinear.toList.map BitVec.toNat = [0, 2, 3, 4, 5, 6, 7, 1] ∧
  State.reset.rom.d5ToLinear.toList.map BitVec.toNat = [0, 7, 1, 2, 3, 4, 5, 6] ∧
  State.reset.rom.inv6.toList.map BitVec.toNat = [1, 0, 5, 4, 3, 2, 6, 7] ∧
  State.reset.rom.inv8.toList.map BitVec.toNat = [1, 0, 7, 6, 5, 4, 3, 2]

/-- Units are independent (spec/20_memory.md R53; spec/60_exceptions.md R233). The list of units, the schedule and the
stuck unit that stays as it is are the model's DESIGN CHOICE of log entry 10: after any schedule each unit is where its
own steps alone have taken it. And whatever the other units did, a request that a unit then has presented, while it is
not faulted, gets the response that every other unit with the same tables gives to it alone. -/
def Obligations.UnitsAreIndependent : Prop :=
  ∀ (schedule : List Nat) (us : List State) (n : Nat),
    (runUnits schedule us)[n]? = us[n]?.map (advance^[schedule.count n]) ∧
    ∀ u v q rest, us[n]? = some u → (runUnits schedule us)[n]? = some v → Ready v q rest →
      ∃ resp, answered (step v) = some resp ∧
        ∀ alone rest', alone.rom = u.rom → Ready alone q rest' → answered (step alone) = some resp

/-- R266: in a run that does not stop, each move takes one step (log entry 6), and what becomes of the requests is in the
order in which the host presented them, one entry for each; a request that is not presented with reset has exactly its
one response. And such a run, once it has taken all moves, is finished (R268) if and only if reset discarded no request
in progress and the unit is not faulted; what a request that the faulted unit did not accept counts for is log
entry 12. -/
def Obligations.RunsServeRequestsInOrder : Prop :=
  ∀ n s t served, serve n s = some (t, served) →
    Host.Core.run core n s = .next t ∧
    t.hostMoves = s.hostMoves.drop n ∧
    served.map Served.request = (s.hostMoves.take n).filterMap HostMove.presents ∧
    (served.filterMap fun e =>
        match e with
        | .answered q _ => some q
        | .discarded _ | .notAccepted _ => none) =
      ((s.hostMoves.take n).filterMap fun m =>
        match m with
        | .request q => some q
        | .reset _ => none) ∧
    (t.hostMoves = [] → (Finished n s ↔ (∀ q, .discarded q ∉ served) ∧ t.status.getLsbD 0 = false))

/-- R266, R268: where the host presents only requests that fail no check, a unit that is not faulted answers them all,
one a step (log entry 6), and the run is then finished (log entry 12). Each request has its own normal response, the one
that every unit with the same tables gives to it alone. -/
def Obligations.GoodRequestsFinish : Prop :=
  ∀ (moves : List HostMove) (s : State), s.hostMoves = moves → s.status.getLsbD 0 = false →
    (∀ m ∈ moves, ∃ q, m = .request q ∧ requestFault q = none) →
    ∃ t served, Host.Core.run core moves.length s = .next t ∧ serve moves.length s = some (t, served) ∧
      Finished moves.length s ∧ t.rom = s.rom ∧
      served.map (fun e => HostMove.request e.request) = moves ∧
      ∀ e ∈ served, ∃ q resp, e = .answered q resp ∧ resp.fault = false ∧ resp.fcode = 0 ∧
        ∀ alone rest, alone.rom = s.rom → Ready alone q rest → AnswersWith (step alone) alone rest resp

/-! ## Packing (spec/41_packing.md) -/

/-- R101 and R100: UNPK565, both forms. -/
def Obligations.Unpk565Result : Prop :=
  ∀ scaled s q rest, Ready s q rest →
    AnswersScalar (exec (.unpk565 scaled) s) s rest
      (if scaled then wideColor (q.a.toNat % 65536) (min q.b.toNat 255)
       else rgbaNat (redOf (q.a.toNat % 65536)) (greenOf (q.a.toNat % 65536)) (blueOf (q.a.toNat % 65536))
         (min q.b.toNat 255))

/-- R102: PK565, both forms. -/
def Obligations.Pk565Result : Prop :=
  ∀ scaled (bias : BitVec 8) s q rest, Ready s q rest →
    let r := q.a.toNat % 256
    let g := q.a.toNat / 256 % 256
    let b := q.a.toNat / 65536 % 256
    AnswersScalar (exec (.pk565 scaled bias) s) s rest
      (if scaled then
        quantised b 31 bias.toNat + 32 * quantised g 63 bias.toNat + 2048 * quantised r 31 bias.toNat
       else min b 31 + 32 * min g 63 + 2048 * min r 31)

/-- R104: PKEP32. -/
def Obligations.Pkep32Result : Prop :=
  ∀ s q rest, Ready s q rest →
    if 65535 < q.a.toNat ∨ 65535 < q.b.toNat then Faults (exec .pkep32 s) s rest q .valueRange
    else AnswersScalar (exec .pkep32 s) s rest (q.a.toNat + 65536 * q.b.toNat)

/-- R105: UNPKEP32. -/
def Obligations.Unpkep32Result : Prop :=
  ∀ (idx : BitVec 8) s q rest, Ready s q rest →
    if 1 < idx.toNat then Faults (exec (.unpkep32 idx) s) s rest q .badIndex
    else AnswersScalar (exec (.unpkep32 idx) s) s rest (q.a.toNat / 65536 ^ idx.toNat % 65536)

/-- R106: PKEP16. -/
def Obligations.Pkep16Result : Prop :=
  ∀ s q rest, Ready s q rest →
    if 255 < q.a.toNat ∨ 255 < q.b.toNat then Faults (exec .pkep16 s) s rest q .valueRange
    else AnswersScalar (exec .pkep16 s) s rest (q.a.toNat + 256 * q.b.toNat)

/-- R107: UNPKEP16. -/
def Obligations.Unpkep16Result : Prop :=
  ∀ (idx : BitVec 8) s q rest, Ready s q rest →
    if 1 < idx.toNat then Faults (exec (.unpkep16 idx) s) s rest q .badIndex
    else AnswersScalar (exec (.unpkep16 idx) s) s rest (q.a.toNat % 65536 / 256 ^ idx.toNat % 256)

/-- R103: the round trips of PK565 and UNPK565 with S = 1. Through the operations, unpacking an endpoint p and packing the
result gives packed bias p, and packing channels and unpacking the result gives each channel's wide (quantised c).
packed is p for bias 127 and 128, and for bias 0 it is not p for 55710 of the 65536 values. A channel's way there and
back is off by at most 4 (5-bit) and 2 (6-bit) with bias 128, and by at most 8 and 4 with bias 0, and these bounds are
reached. -/
def Obligations.PackUnpackRoundTrip : Prop :=
  let packed (bias p : Nat) : Nat :=
    quantised (wide5 (blueOf p)) 31 bias + 32 * quantised (wide6 (greenOf p)) 63 bias +
      2048 * quantised (wide5 (redOf p)) 31 bias
  let off (wide : Nat → Nat) (max bias c : Nat) : Nat :=
    (wide (quantised c max bias) - c) + (c - wide (quantised c max bias))
  (∀ (bias : BitVec 8) s q rest, Ready s q rest →
    ∃ resp, answered (exec (.unpk565 true) s) = some resp ∧
      ∀ s' q' rest', Ready s' q' rest' → q'.a = resp.r →
        AnswersScalar (exec (.pk565 true bias) s') s' rest' (packed bias.toNat (q.a.toNat % 65536))) ∧
  (∀ (bias : BitVec 8) s q rest, Ready s q rest →
    ∃ resp, answered (exec (.pk565 true bias) s) = some resp ∧
      ∀ s' q' rest', Ready s' q' rest' → q'.a = resp.r →
        AnswersScalar (exec (.unpk565 true) s') s' rest'
          (rgbaNat (wide5 (quantised (q.a.toNat % 256) 31 bias.toNat))
            (wide6 (quantised (q.a.toNat / 256 % 256) 63 bias.toNat))
            (wide5 (quantised (q.a.toNat / 65536 % 256) 31 bias.toNat)) (min q'.b.toNat 255))) ∧
  (∀ p < 65536, packed 127 p = p ∧ packed 128 p = p) ∧
  ((List.range 65536).filter fun p => packed 0 p ≠ p).length = 55710 ∧
  (∀ c < 256, off wide5 31 128 c ≤ 4 ∧ off wide6 63 128 c ≤ 2 ∧ off wide5 31 0 c ≤ 8 ∧ off wide6 63 0 c ≤ 4) ∧
  (∃ c < 256, off wide5 31 128 c = 4) ∧ (∃ c < 256, off wide6 63 128 c = 2) ∧
  (∃ c < 256, off wide5 31 0 c = 8) ∧ ∃ c < 256, off wide6 63 0 c = 4

/-! ## Ramps (spec/42_ramps.md) -/

/-- R124 with R121, R122 and R123: PAL1. -/
def Obligations.Pal1Result : Prop :=
  ∀ rnd s q rest, Ready s q rest →
    let e0 := q.a.toNat % 65536
    let e1 := q.b.toNat % 65536
    AnswersVector (exec (.pal1 rnd) s) s rest (if e1 < e0 then 4 else 3)
      (fun i => if i < 4 then paletteEntry e0 e1 (addend rnd) i else 0)

/-- R125: in both modes and for both values of RND, V[0] and V[1] of PAL1 are what UNPK565 with S = 1 and alpha 255
answers for the two endpoints, every entry has alpha 255 except the 3-color sentinel V[3] = 0, and RND changes
nothing but V[2] and, in the 4-color mode, V[3]. -/
def Obligations.PaletteInvariants : Prop :=
  ∀ s q rest s0 q0 rest0 s1 q1 rest1, Ready s q rest → Ready s0 q0 rest0 → Ready s1 q1 rest1 →
    q0.a = q.a → q1.a = q.b → q0.b = 255 → q1.b = 255 →
    ∃ trunc round u0 u1, answered (exec (.pal1 false) s) = some trunc ∧ answered (exec (.pal1 true) s) = some round ∧
      answered (exec (.unpk565 true) s0) = some u0 ∧ answered (exec (.unpk565 true) s1) = some u1 ∧
      (∀ p ∈ [trunc, round], p.v[0] = u0.r ∧ p.v[1] = u1.r ∧
        (∀ (i : Nat) (h : i < 3), p.v[i].toNat / 16777216 = 255) ∧
        (if q.b.toNat % 65536 < q.a.toNat % 65536 then p.v[3].toNat / 16777216 = 255 else p.v[3] = 0)) ∧
      ∀ (i : Nat) (h : i < 16), trunc.v[i] ≠ round.v[i] →
        i = 2 ∨ (i = 3 ∧ q.b.toNat % 65536 < q.a.toNat % 65536)

/-- R126: PALNV, for whatever function NV_PALETTE is (log entry 4). -/
def Obligations.PalnvResult : Prop :=
  ∀ s q rest, Ready s q rest →
    let p := Config.nvPalette (BitVec.ofNat 16 q.a.toNat) (BitVec.ofNat 16 q.b.toNat)
    AnswersVector (exec .palnv s) s rest (match p.count with | .three => 3 | .four => 4)
      (fun i => if h : i < 4 then p.entries[i].toNat else 0)

/-- R129 with R127 and R128: ARAMP. -/
def Obligations.ArampResult : Prop :=
  ∀ s q rest, Ready s q rest →
    let l := q.a.toNat % 256
    let h := q.b.toNat % 256
    AnswersVector (exec .aramp s) s rest (if h < l then 8 else 6) (fun i => if i < 8 then rampEntry l h i else 0)

/-- R130: ARAMPQ, the same values in the alpha lanes. -/
def Obligations.ArampqResult : Prop :=
  ∀ s q rest, Ready s q rest →
    let l := q.a.toNat % 256
    let h := q.b.toNat % 256
    AnswersVector (exec .arampq s) s rest (if h < l then 8 else 6)
      (fun i => if i < 8 then 16777216 * rampEntry l h i else 0)

/-- R131: ARAMP's V[0] and V[1] are the endpoints in both modes, and in the 8-value mode V in the linear order 0, 2, 3,
4, 5, 6, 7, 1 is non-increasing. -/
def Obligations.RampInvariants : Prop :=
  ∀ s q rest, Ready s q rest →
    ∃ p, answered (exec .aramp s) = some p ∧
      p.v[0].toNat = q.a.toNat % 256 ∧ p.v[1].toNat = q.b.toNat % 256 ∧
      (q.b.toNat % 256 < q.a.toNat % 256 →
        ([0, 2, 3, 4, 5, 6, 7, 1].map fun i => (p.v.toList.getD i 0).toNat).Pairwise (· ≥ ·))

/-! ## Remap tables (spec/43_remap.md) -/

/-- R140: a remap operation answers its table's entry, which is less than the table's size, and BAD_INDEX at and above
that size, whatever the tables hold. -/
def Obligations.RemapReadsItsTable : Prop :=
  ∀ (idx : BitVec 8) s q rest, Ready s q rest →
    (∀ p ∈ [(Instr.d1fl idx, s.rom.d1FromLinear), (.d1tl idx, s.rom.d1ToLinear)],
      (∀ h : idx.toNat < 4, p.2[idx.toNat].toNat < 4 ∧ AnswersScalar (exec p.1 s) s rest p.2[idx.toNat].toNat) ∧
      (4 ≤ idx.toNat → Faults (exec p.1 s) s rest q .badIndex)) ∧
    ∀ p ∈ [(Instr.d5fl idx, s.rom.d5FromLinear), (.d5tl idx, s.rom.d5ToLinear), (.inv6 idx, s.rom.inv6),
        (.inv8 idx, s.rom.inv8)],
      (∀ h : idx.toNat < 8, p.2[idx.toNat].toNat < 8 ∧ AnswersScalar (exec p.1 s) s rest p.2[idx.toNat].toNat) ∧
      (8 ≤ idx.toNat → Faults (exec p.1 s) s rest q .badIndex)

/-- R141 to R146 with the constant tables, which the invariant gives: the table's entry, and BAD_INDEX beyond it. -/
def Obligations.RemapAnswers : Prop :=
  ∀ (idx : BitVec 8) s q rest, Ready s q rest → s.rom = romConstants →
    ∀ p ∈ [(Instr.d1fl idx, [0, 2, 3, 1]), (.d1tl idx, [0, 3, 1, 2]), (.d5fl idx, [0, 2, 3, 4, 5, 6, 7, 1]),
        (.d5tl idx, [0, 7, 1, 2, 3, 4, 5, 6]), (.inv6 idx, [1, 0, 5, 4, 3, 2, 6, 7]),
        (.inv8 idx, [1, 0, 7, 6, 5, 4, 3, 2])],
      (∀ h : idx.toNat < p.2.length, AnswersScalar (exec p.1 s) s rest p.2[idx.toNat]) ∧
      (p.2.length ≤ idx.toNat → Faults (exec p.1 s) s rest q .badIndex)

/-- R147: the table laws through the operations, for the constant tables. -/
def Obligations.TableLaws : Prop :=
  ∀ s q rest, Ready s q rest → s.rom = romConstants →
    (∀ p ∈ [(Instr.d1fl, Instr.d1tl), (.d1tl, .d1fl)], ∀ i : BitVec 8, i.toNat < 4 →
      ∃ j : BitVec 8, AnswersScalar (exec (p.1 i) s) s rest j.toNat ∧ AnswersScalar (exec (p.2 j) s) s rest i.toNat) ∧
    (∀ p ∈ [(Instr.d5fl, Instr.d5tl), (.d5tl, .d5fl), (.inv6, .inv6), (.inv8, .inv8)], ∀ i : BitVec 8, i.toNat < 8 →
      ∃ j : BitVec 8, AnswersScalar (exec (p.1 i) s) s rest j.toNat ∧ AnswersScalar (exec (p.2 j) s) s rest i.toNat) ∧
    ∀ op ∈ [Instr.inv6, Instr.inv8], AnswersScalar (exec (op 0) s) s rest 1 ∧ AnswersScalar (exec (op 1) s) s rest 0

/-- The swap identities of R145, R146 and R29: the 6-value formula of (l, h) at selector i is that of (h, l) at the
selector that INV6 answers for i, and the same for the 8-value formula and INV8. -/
def Obligations.InvertSelectsTheSameEntry : Prop :=
  ∀ s q rest, Ready s q rest → s.rom = romConstants →
    ∀ (l h : Nat) (i : BitVec 8), i.toNat < 8 →
      (∃ j, AnswersScalar (exec (.inv6 i) s) s rest j ∧ ramp6 l h i.toNat = ramp6 h l j) ∧
      ∃ j, AnswersScalar (exec (.inv8 i) s) s rest j ∧ ramp8 l h i.toNat = ramp8 h l j

/-! ## DXT3 alpha (spec/44_dxt3_alpha.md) -/

/-- R161 with R160: GETA3, both forms. -/
def Obligations.Geta3Result : Prop :=
  ∀ scaled (x y : BitVec 2) s q rest, Ready s q rest →
    AnswersScalar (exec (.geta3 scaled x y) s) s rest
      (if scaled then 17 * alphaNibble q.blk x.toNat y.toNat else alphaNibble q.blk x.toNat y.toNat)

/-- R162: SETA3, both forms: the texel's nibble is the value, every other nibble and bytes 8..15 are BLK's. -/
def Obligations.Seta3Result : Prop :=
  ∀ scaled (x y : BitVec 2) s q rest, Ready s q rest →
    if (if scaled then 255 else 15) < q.a.toNat then Faults (exec (.seta3 scaled x y) s) s rest q .valueRange
    else AnswersBlock (exec (.seta3 scaled x y) s) s rest fun bo =>
      (∀ x' < 4, ∀ y' < 4, alphaNibble bo x' y' =
        if x' = x.toNat ∧ y' = y.toNat then (if scaled then (q.a.toNat * 15 + 128) / 255 else q.a.toNat)
        else alphaNibble q.blk x' y') ∧
      ∀ j, 8 ≤ j → blockByte bo j = blockByte q.blk j

/-- R163: SETA3 and then GETA3 on its BO. The same texel reads the stored value q; every other texel reads what it read
on BLK, with either S; and with S = 1 on both sides the value read is 17*q, which differs from the one written by at most 8. -/
def Obligations.NibbleIsolation : Prop :=
  ∀ scaled (x y : BitVec 2) s q rest, Ready s q rest → q.a.toNat ≤ (if scaled then 255 else 15) →
    ∃ written, answered (exec (.seta3 scaled x y) s) = some written ∧
      ∀ s' q' rest', Ready s' q' rest' → q'.blk = written.bo →
        AnswersScalar (exec (.geta3 false x y) s') s' rest'
          (if scaled then (q.a.toNat * 15 + 128) / 255 else q.a.toNat) ∧
        (∀ (wide : Bool) (x' y' : BitVec 2), ¬(x' = x ∧ y' = y) → ∀ s0 rest0, Ready s0 q rest0 →
          ∃ n, AnswersScalar (exec (.geta3 wide x' y') s0) s0 rest0 n ∧
            AnswersScalar (exec (.geta3 wide x' y') s') s' rest' n) ∧
        (scaled = true →
          let n := 17 * ((q.a.toNat * 15 + 128) / 255)
          AnswersScalar (exec (.geta3 true x y) s') s' rest' n ∧ n ≤ q.a.toNat + 8 ∧ q.a.toNat ≤ n + 8)

/-! ## Block fields (spec/45_block_mux.md) -/

/-- R172: GCEP. -/
def Obligations.GcepResult : Prop :=
  ∀ fmt s q rest, Ready s q rest →
    match baseOf fmt with
    | some o => AnswersScalar (exec (.gcep fmt) s) s rest (blockLE q.blk o 4)
    | none => Faults (exec (.gcep fmt) s) s rest q .badFormat

/-- R173: SCEP. -/
def Obligations.ScepResult : Prop :=
  ∀ fmt s q rest, Ready s q rest →
    match baseOf fmt with
    | some o => AnswersBlock (exec (.scep fmt) s) s rest fun bo =>
        blockLE bo o 4 = q.a.toNat ∧ ∀ j, ¬(o ≤ j ∧ j < o + 4) → blockByte bo j = blockByte q.blk j
    | none => Faults (exec (.scep fmt) s) s rest q .badFormat

/-- R174: GCSEL. -/
def Obligations.GcselResult : Prop :=
  ∀ fmt (x y : BitVec 2) s q rest, Ready s q rest →
    match baseOf fmt with
    | some o => AnswersScalar (exec (.gcsel fmt x y) s) s rest (colorSelector q.blk o (texelAt x y))
    | none => Faults (exec (.gcsel fmt x y) s) s rest q .badFormat

/-- R175: SCSEL: the texel's selector is A, the other 15 and every byte outside the selector field are BLK's. -/
def Obligations.ScselResult : Prop :=
  ∀ fmt (x y : BitVec 2) s q rest, Ready s q rest →
    match baseOf fmt with
    | some o =>
      if 3 < q.a.toNat then Faults (exec (.scsel fmt x y) s) s rest q .valueRange
      else AnswersBlock (exec (.scsel fmt x y) s) s rest fun bo =>
        (∀ t < 16, colorSelector bo o t = if t = texelAt x y then q.a.toNat else colorSelector q.blk o t) ∧
        ∀ j, ¬(o + 4 ≤ j ∧ j < o + 8) → blockByte bo j = blockByte q.blk j
    | none => Faults (exec (.scsel fmt x y) s) s rest q .badFormat

/-- R176: GAEP. -/
def Obligations.GaepResult : Prop :=
  ∀ fmt s q rest, Ready s q rest →
    (HasRamp fmt → AnswersScalar (exec (.gaep fmt) s) s rest (blockLE q.blk 0 2)) ∧
    (¬HasRamp fmt → Faults (exec (.gaep fmt) s) s rest q .badFormat)

/-- R177: SAEP. -/
def Obligations.SaepResult : Prop :=
  ∀ fmt s q rest, Ready s q rest →
    (HasRamp fmt → AnswersBlock (exec (.saep fmt) s) s rest fun bo =>
      blockLE bo 0 2 = q.a.toNat % 65536 ∧ ∀ j, 2 ≤ j → blockByte bo j = blockByte q.blk j) ∧
    (¬HasRamp fmt → Faults (exec (.saep fmt) s) s rest q .badFormat)

/-- R178: GASEL. -/
def Obligations.GaselResult : Prop :=
  ∀ fmt (x y : BitVec 2) s q rest, Ready s q rest →
    (HasRamp fmt → AnswersScalar (exec (.gasel fmt x y) s) s rest (alphaSelector q.blk (texelAt x y))) ∧
    (¬HasRamp fmt → Faults (exec (.gasel fmt x y) s) s rest q .badFormat)

/-- R179: SASEL: the texel's selector is A, the other 15 and every byte outside the selector field are BLK's. -/
def Obligations.SaselResult : Prop :=
  ∀ fmt (x y : BitVec 2) s q rest, Ready s q rest →
    (HasRamp fmt →
      if 7 < q.a.toNat then Faults (exec (.sasel fmt x y) s) s rest q .valueRange
      else AnswersBlock (exec (.sasel fmt x y) s) s rest fun bo =>
        (∀ t < 16, alphaSelector bo t = if t = texelAt x y then q.a.toNat else alphaSelector q.blk t) ∧
        ∀ j, ¬(2 ≤ j ∧ j < 8) → blockByte bo j = blockByte q.blk j) ∧
    (¬HasRamp fmt → Faults (exec (.sasel fmt x y) s) s rest q .badFormat)

/-- R50: the outputs of an operation that writes BO, on an 8-byte flavor, have BLK's bytes 8..15. -/
def Obligations.EightByteFlavorsPassTheUpperBytes : Prop :=
  ∀ i s q rest resp, Ready s q rest →
    (∃ f, blockBytes f = 8 ∧ (i = .scep f ∨ i = .saep f ∨ ∃ x y, i = .scsel f x y ∨ i = .sasel f x y)) →
    answered (exec i s) = some resp → resp.fault = false →
    ∀ j, 8 ≤ j → j < 16 → blockByte resp.bo j = blockByte q.blk j

/-! ## Texel decode (spec/45_block_mux.md) -/

/-- R182 with R180 and R181: DECT on every known flavor; BAD_FORMAT on the others. -/
def Obligations.DectResult : Prop :=
  ∀ fmt (x y : BitVec 2) rnd s q rest, Ready s q rest →
    if known fmt then
      AnswersScalar (exec (.dect fmt x y rnd) s) s rest (texelNat fmt q.blk (texelAt x y) (addend rnd))
    else Faults (exec (.dect fmt x y rnd) s) s rest q .badFormat

/-- R183: DECB writes V[t] with what DECT answers for x = t & 3, y = t >> 2 and the same RND, nothing else; BAD_FORMAT
on an unknown flavor. -/
def Obligations.DecbIsSixteenDects : Prop :=
  ∀ fmt rnd s q rest, Ready s q rest →
    if known fmt then
      ∃ f : Nat → Nat, AnswersVector (exec (.decb fmt rnd) s) s rest 0 f ∧
        ∀ x y : BitVec 2, AnswersScalar (exec (.dect fmt x y rnd) s) s rest (f (texelAt x y))
    else Faults (exec (.decb fmt rnd) s) s rest q .badFormat

/-- R184: DXT1 and DXT1A decode identically, and differ only in FALPHA: every other operation with a flavor gives the
same outcome for both. -/
def Obligations.Dxt1aDecodesAsDxt1 : Prop :=
  ∀ s : State,
    (∀ x y rnd, exec (.dect .dxt1 x y rnd) s = exec (.dect .dxt1a x y rnd) s) ∧
    (∀ rnd, exec (.decb .dxt1 rnd) s = exec (.decb .dxt1a rnd) s) ∧
    (∀ op ∈ [Instr.gcep, .scep, .gaep, .saep, .fbpp, .fblk], exec (op .dxt1) s = exec (op .dxt1a) s) ∧
    (∀ op ∈ [Instr.gcsel, .scsel, .gasel, .sasel], ∀ x y, exec (op .dxt1 x y) s = exec (op .dxt1a x y) s) ∧
    ∀ q rest, Ready s q rest → AnswersScalar (exec (.falpha .dxt1) s) s rest 0 ∧
      AnswersScalar (exec (.falpha .dxt1a) s) s rest 1

/-- R185: with e0 <= e1 the color block of DXT3 and DXT5 is in the 3-color mode too: selector 3 decodes to RGB 0 with the
alpha of the alpha sub-block. -/
def Obligations.Dxt3AndDxt5KeepTheColorMode : Prop :=
  ∀ (x y : BitVec 2) rnd s q rest, Ready s q rest →
    blockLE q.blk 8 2 ≤ blockLE q.blk 10 2 → colorSelector q.blk 8 (texelAt x y) = 3 →
    AnswersScalar (exec (.dect .dxt3 x y rnd) s) s rest (16777216 * (17 * alphaNibble q.blk x.toNat y.toNat)) ∧
    AnswersScalar (exec (.dect .dxt5 x y rnd) s) s rest (16777216 * alphaTexelNat q.blk (texelAt x y))

/-- R264 and R54 with the set and get operations: a field that one request writes to BO is what a later request reads
when the host presents that BO as its BLK. -/
def Obligations.WrittenFieldReadsBack : Prop :=
  ∀ fmt (x y : BitVec 2) s q rest s' q' rest' resp, Ready s q rest → Ready s' q' rest' → resp.fault = false →
    q'.blk = resp.bo →
    (answered (exec (.scep fmt) s) = some resp → AnswersScalar (exec (.gcep fmt) s') s' rest' q.a.toNat) ∧
    (answered (exec (.scsel fmt x y) s) = some resp → AnswersScalar (exec (.gcsel fmt x y) s') s' rest' q.a.toNat) ∧
    (answered (exec (.saep fmt) s) = some resp → AnswersScalar (exec (.gaep fmt) s') s' rest' (q.a.toNat % 65536)) ∧
    (answered (exec (.sasel fmt x y) s) = some resp → AnswersScalar (exec (.gasel fmt x y) s') s' rest' q.a.toNat)

/-! ## Format metadata (spec/46_format_metadata.md) -/

/-- R201, R202 and R203 with the table of R200: FBPP, FALPHA and FBLK. -/
def Obligations.FormatQueries : Prop :=
  ∀ fmt s q rest, Ready s q rest →
    if known fmt then
      AnswersScalar (exec (.fbpp fmt) s) s rest (metadata fmt).1 ∧
      AnswersScalar (exec (.fblk fmt) s) s rest (metadata fmt).2.1 ∧
      AnswersScalar (exec (.falpha fmt) s) s rest (metadata fmt).2.2
    else
      Faults (exec (.fbpp fmt) s) s rest q .badFormat ∧ Faults (exec (.fblk fmt) s) s rest q .badFormat ∧
      Faults (exec (.falpha fmt) s) s rest q .badFormat

/-! ## The assembler notation (spec/30_encoding.md R69, R70) -/

/-- The notation of R69. The request of a line has the command word of R69's formula and the line's operands, 0 where
left out. A text is read, expanded and given the OP of its mnemonic, and nothing else. The line of a well-formed
instruction, with the mnemonic and the fields of its row of R66, has the row's OP and gives its word. Which lines are
read at all is log entry 9. -/
def Obligations.AssembledCommandWord : Prop :=
  (∀ (op : BitVec 6) (line : AsmLine) (q : Request), requestOf op line = some q →
    q.cmd.toNat = op.toNat + 64 * line.scaled.toNat + 128 * line.round.toNat + 256 * line.x.getD 0 +
      1024 * line.y.getD 0 + 4096 * line.fmt.getD 0 + 65536 * line.imm.getD 0 ∧
    q.a.toNat = line.a.getD 0 ∧ q.b.toNat = line.b.getD 0 ∧
    ∀ j, blockByte q.blk j = (line.blk.getD []).getD j 0) ∧
  (∀ (text : String) (q : Request), assembleLine text = some q ↔
    ∃ line line' op, readLine text = some line ∧ expandPseudo line = some line' ∧
      findOp line'.mnemonic opOfMnemonic = some op ∧ requestOf op line' = some q) ∧
  ∀ i : Instr, i.wf = true →
    expandPseudo (lineOf i) = some (lineOf i) ∧
    findOp (lineOf i).mnemonic opOfMnemonic = some (cmdOp (encode i)) ∧
    requestOf (cmdOp (encode i)) (lineOf i) = some { cmd := encode i, a := 0, b := 0, blk := 0 }

/-- Texts in the notation of R69, one for each mnemonic and each flavor's name, with the CMD that R69 or
spec/95_test_vectors.md writes beside the text, or, where they have no such text, the CMD of R69's formula. A sanity check
of the reading of a text. -/
def Obligations.WrittenOutTextsAssemble : Prop :=
  (assembleLine "PK565.S bias=128 ; a=0x00FFFFFF" =
      some { cmd := 0x00800042, a := 0x00FFFFFF, b := 0, blk := 0 }) ∧
  (assembleLine "SETA3 x=1, y=0 ; a=0x5, blk=0F" = some { cmd := 0x119, a := 5, b := 0, blk := 0x0F }) ∧
  (assembleLine "GAEP fmt=DXT5 ; blk=FF 01" = some { cmd := 0x3024, a := 0, b := 0, blk := 0x01FF }) ∧
  ∀ p ∈ [("UNPK565.S", 0x41), ("PK565 imm=0xFF", 0xFF0002), ("PKEP32", 0x3), ("UNPKEP32 idx=1", 0x10004),
        ("PKEP16", 0x5), ("UNPKEP16 idx=1", 0x10006), ("PAL1.R", 0x88), ("PALNV", 0x9), ("ARAMP", 0xA),
        ("ARAMPQ", 0xB)] ++
      [("D1FL idx=3", 0x30010), ("D1TL idx=3", 0x30011), ("D5FL idx=7", 0x70012), ("D5TL idx=7", 0x70013),
        ("INV6 idx=7", 0x70014), ("INV8 idx=7", 0x70015), ("GETA3.S x=2, y=3", 0xE58), ("SETA3.S x=3, y=3", 0xF59)] ++
      [("GCEP fmt=DXT3", 0x2020), ("SCEP fmt=DXT5", 0x3021), ("GCSEL fmt=DXT1 x=3, y=3", 0xF22),
        ("SCSEL fmt=DXT1 x=3, y=3", 0xF23), ("GAEP fmt=DXT5", 0x3024), ("SAEP fmt=DXT5A", 0x4025),
        ("GASEL fmt=DXT5 x=1, y=1", 0x3526), ("SASEL fmt=DXT5 x=2, y=0", 0x3227)] ++
      [("DECT fmt=DXT1A x=2, y=1", 0x1628), ("DECT.R fmt=DXT1 x=0, y=0", 0xA8), ("DECB fmt=DXT5", 0x3029),
        ("FBPP fmt=7", 0x7030), ("FALPHA fmt=DXT1A", 0x1031), ("FBLK fmt=DXT5A", 0x4032)],
    assembleLine p.1 = some { cmd := p.2, a := 0, b := 0, blk := 0 }

/-- R70: the DEC and DECB pseudo-instructions stand for DECT and DECB with the flavor's tag. That the rest of the line stays
as it is, also the suffixes, IMM8 and operands that R70 does not show there (DEC1.R is DECT.R), is the model's DESIGN
CHOICE of log entry 9. And through the unit NOP answers 4, PK565N packs with S = 1 and bias 128, and SWAPEP answers the endpoint word with
its halves exchanged. -/
def Obligations.PseudoInstructionsMeanTheirExpansions : Prop :=
  (∀ line : AsmLine, line.fmt = none →
    ∀ p ∈ [("DEC1", "DECT", 0), ("DEC1A", "DECT", 1), ("DEC3", "DECT", 2), ("DEC5", "DECT", 3), ("DEC5A", "DECT", 4),
        ("DECB1", "DECB", 0), ("DECB1A", "DECB", 1), ("DECB3", "DECB", 2), ("DECB5", "DECB", 3), ("DECB5A", "DECB", 4)],
      expandPseudo { line with mnemonic := p.1.toList } =
        some { line with mnemonic := p.2.1.toList, fmt := some p.2.2 }) ∧
  ∀ (s : State) (rest : List HostMove) (line : AsmLine), s.status.getLsbD 0 = false →
    line.fmt = none → line.imm = none → line.x = none → line.y = none → line.round = false → line.scaled = false →
    line.b = none → line.blk = none → line.a.getD 0 < 4294967296 →
    (∃ line' q, expandPseudo { line with mnemonic := "NOP".toList } = some line' ∧ line'.mnemonic = "FBPP".toList ∧
      requestOf 0x30 line' = some q ∧ AnswersScalar (step { s with hostMoves := .request q :: rest }) s rest 4) ∧
    (∃ line' q, expandPseudo { line with mnemonic := "PK565N".toList } = some line' ∧
      line'.mnemonic = "PK565".toList ∧ requestOf 0x02 line' = some q ∧ q.a.toNat = line.a.getD 0 ∧
      step { s with hostMoves := .request q :: rest } =
        exec (.pk565 true 128) { s with hostMoves := .request q :: rest }) ∧
    ∃ line' q, expandPseudo { line with mnemonic := "SWAPEP".toList } = some line' ∧
      line'.mnemonic = "PKEP32".toList ∧ requestOf 0x03 line' = some q ∧
      AnswersScalar (step { s with hostMoves := .request q :: rest }) s rest
        (line.a.getD 0 / 65536 + 65536 * (line.a.getD 0 % 65536))
end

