-- ==== Sys2Proof/Laws/Bits.lean ====
section
/-! SUPPORT. The bit-field, block-field and color operations in natural numbers. -/

namespace Sys2Proof.Machine

open Sys2Proof.Safety

/-! ## Field writes -/

/-- A field write replaces its bits and leaves every other bit (spec/00_scope.md R7). -/
theorem getLsbD_writeField {n w : Nat} (v : BitVec n) (lo : Nat) (f : BitVec w) (i : Nat) :
    (writeField v lo f).getLsbD i =
      (decide (i < n) && if lo ≤ i ∧ i < lo + w then f.getLsbD (i - lo) else v.getLsbD i) := by
  unfold writeField
  simp only [BitVec.getLsbD_or, BitVec.getLsbD_and, BitVec.getLsbD_not, BitVec.getLsbD_shiftLeft,
    BitVec.getLsbD_setWidth, BitVec.getLsbD_allOnes]
  by_cases hn : i < n
  · by_cases hlo : i < lo
    · have : ¬(lo ≤ i ∧ i < lo + w) := by omega
      simp [hn, hlo, this]
    · have h1 : i - lo < n := by omega
      by_cases hw : i - lo < w
      · have : lo ≤ i ∧ i < lo + w := by omega
        simp [hn, hlo, h1, hw, this]
      · have : ¬(lo ≤ i ∧ i < lo + w) := by omega
        have hf : f.getLsbD (i - lo) = false := BitVec.getLsbD_of_ge _ _ (by omega)
        simp [hn, hlo, h1, hw, this, hf]
  · simp [hn]

/-- Reading the field that was written, where it fits. -/
theorem extract_writeField_same {n w : Nat} (v : BitVec n) (lo : Nat) (f : BitVec w) (h : lo + w ≤ n) :
    (writeField v lo f).extractLsb' lo w = f := by
  apply BitVec.eq_of_getLsbD_eq
  intro i hi
  have h2 : lo + i < n := by omega
  have h3 : lo ≤ lo + i ∧ lo + i < lo + w := by omega
  rw [BitVec.getLsbD_extractLsb', getLsbD_writeField]
  simp only [hi, h2, h3, decide_true, Bool.true_and, and_self, if_true, Nat.add_sub_cancel_left]

/-- Reading a field that the write does not touch. -/
theorem extract_writeField_apart {n w : Nat} (v : BitVec n) (lo : Nat) (f : BitVec w) (lo' w' : Nat)
    (h : lo' + w' ≤ lo ∨ lo + w ≤ lo') : (writeField v lo f).extractLsb' lo' w' = v.extractLsb' lo' w' := by
  apply BitVec.eq_of_getLsbD_eq
  intro i hi
  have h3 : ¬(lo ≤ lo' + i ∧ lo' + i < lo + w) := by omega
  simp only [BitVec.getLsbD_extractLsb', getLsbD_writeField, hi, h3, if_false, decide_true, Bool.true_and]
  by_cases h4 : lo' + i < n
  · simp [h4]
  · simp [h4, BitVec.getLsbD_of_ge _ _ (show n ≤ lo' + i by omega)]

/-! ## The block -/

/-- A field as a quotient and a remainder. -/
theorem extract_toNat {n : Nat} (v : BitVec n) (lo w : Nat) :
    (v.extractLsb' lo w).toNat = v.toNat / 2 ^ lo % 2 ^ w := by
  simp [BitVec.extractLsb'_toNat, Nat.shiftRight_eq_div_pow]

/-- BlkByte(i) in numbers (spec/20_memory.md R41). -/
theorem blkByte_toNat (b : Block) (i : Nat) : (blkByte b i).toNat = blockByte b i := by
  rw [blkByte, extract_toNat, blockByte, pow_mul]
  rfl

/-- BlkLE(o, n) as the sum of its bytes (spec/20_memory.md R41). -/
theorem blockLE_eq (b : Block) (o n : Nat) : blockLE b o n = b.toNat / 256 ^ o % 256 ^ n := by
  induction n with
  | zero => simp [blockLE, Nat.mod_one]
  | succ n ih =>
    have hs : blockLE b o (n + 1) = blockLE b o n + blockByte b (o + n) * 256 ^ n := by
      simp [blockLE, Finset.sum_range_succ]
    rw [hs, ih, blockByte, pow_add, ← Nat.div_div_eq_div_mul, pow_succ, Nat.mod_mul]
    ring

/-- A block field of 8n bits is BlkLE(o, n). -/
theorem blkField_toNat (b : Block) (o n : Nat) : (blkField b o (8 * n)).toNat = blockLE b o n := by
  rw [blkField, extract_toNat, blockLE_eq, pow_mul, pow_mul]
  rfl

theorem blkField16_toNat (b : Block) (o : Nat) : (blkField b o 16).toNat = blockLE b o 2 := blkField_toNat b o 2
theorem blkField32_toNat (b : Block) (o : Nat) : (blkField b o 32).toNat = blockLE b o 4 := blkField_toNat b o 4
theorem blkField48_toNat (b : Block) (o : Nat) : (blkField b o 48).toNat = blockLE b o 6 := blkField_toNat b o 6

/-- The color selector of a texel in numbers (spec/20_memory.md R44). -/
theorem colorSel_toNat (b : Block) (o t : Nat) :
    (colorSel (blkField b (o + 4) 32) t).toNat = colorSelector b o t := by
  rw [colorSel, extract_toNat, blkField32_toNat, colorSelector, pow_mul]
  rfl

/-- The alpha selector of a texel in numbers (spec/20_memory.md R48). -/
theorem alphaSel_toNat (b : Block) (t : Nat) : (alphaSel (blkField b 2 48) t).toNat = alphaSelector b t := by
  rw [alphaSel, extract_toNat, blkField48_toNat, alphaSelector, pow_mul]
  rfl

/-- The explicit alpha of a texel in numbers (spec/20_memory.md R46). -/
theorem nibble_toNat (b : Block) (x y : BitVec 2) : (nibble b x y).toNat = alphaNibble b x.toNat y.toNat := by
  rw [nibble, extract_toNat, blkByte_toNat, alphaNibble, pow_mul]
  rfl

/-! ## Colors -/

theorem rgba_toNat (r g b a : Byte) : (rgba r g b a).toNat = rgbaNat r.toNat g.toNat b.toNat a.toNat := by
  have hr := r.isLt
  have hg := g.isLt
  have hb := b.isLt
  unfold rgba rgbaNat
  simp only [BitVec.toNat_append]
  rw [← Nat.shiftLeft_add_eq_or_of_lt hb, ← Nat.shiftLeft_add_eq_or_of_lt hg, ← Nat.shiftLeft_add_eq_or_of_lt hr]
  simp only [Nat.shiftLeft_eq]
  omega

theorem expand5_toNat (c : BitVec 5) : (expand5 c).toNat = wide5 c.toNat := by revert c; decide
theorem expand6_toNat (c : BitVec 6) : (expand6 c).toNat = wide6 c.toNat := by revert c; decide
theorem expandNibble_toNat (v : BitVec 4) : (expandNibble v).toNat = 17 * v.toNat := by revert v; decide

theorem low16_toNat (w : Word) : (low16 w).toNat = w.toNat % 65536 := by simp [low16]
theorem low8_toNat (w : Word) : (low8 w).toNat = w.toNat % 256 := by simp [low8]

theorem red5_toNat (p : Half) : (red5 p).toNat = redOf p.toNat := by rw [red5, extract_toNat]; rfl
theorem green6_toNat (p : Half) : (green6 p).toNat = greenOf p.toNat := by rw [green6, extract_toNat]; rfl
theorem blue5_toNat (p : Half) : (blue5 p).toNat = blueOf p.toNat := by simp [blue5, blueOf]

/-- UNPK565 with S = 1 in numbers (spec/41_packing.md R101). -/
theorem unpackColor_scaled_toNat (p : Half) (a : Byte) :
    (unpackColor true p a).toNat = wideColor p.toNat a.toNat := by
  simp [unpackColor, rgba_toNat, expand5_toNat, expand6_toNat, red5_toNat, green6_toNat, blue5_toNat, wideColor]

theorem laneR_rgba (r g b a : Byte) : laneR (rgba r g b a) = r := by
  apply BitVec.eq_of_toNat_eq
  rw [laneR, extract_toNat, rgba_toNat, rgbaNat]
  have := r.isLt; have := g.isLt; have := b.isLt; have := a.isLt
  omega

theorem laneG_rgba (r g b a : Byte) : laneG (rgba r g b a) = g := by
  apply BitVec.eq_of_toNat_eq
  rw [laneG, extract_toNat, rgba_toNat, rgbaNat]
  have := r.isLt; have := g.isLt; have := b.isLt; have := a.isLt
  omega

theorem laneB_rgba (r g b a : Byte) : laneB (rgba r g b a) = b := by
  apply BitVec.eq_of_toNat_eq
  rw [laneB, extract_toNat, rgba_toNat, rgbaNat]
  have := r.isLt; have := g.isLt; have := b.isLt; have := a.isLt
  omega

theorem laneA_rgba (r g b a : Byte) : laneA (rgba r g b a) = a := by
  apply BitVec.eq_of_toNat_eq
  rw [laneA, extract_toNat, rgba_toNat, rgbaNat]
  have := r.isLt; have := g.isLt; have := b.isLt; have := a.isLt
  omega

theorem withAlpha_toNat (w : Word) (a : Byte) :
    (withAlpha w a).toNat = w.toNat % 16777216 + 16777216 * a.toNat := by
  have h : (w.extractLsb' 0 24).toNat < 2 ^ 24 := (w.extractLsb' 0 24).isLt
  unfold withAlpha
  rw [BitVec.toNat_append, ← Nat.shiftLeft_add_eq_or_of_lt h, Nat.shiftLeft_eq, extract_toNat]
  omega

/-! ## Ramps (no division or weight overflows a byte, spec/00_scope.md R8) -/

theorem third2_toNat (c0 c1 : Byte) {k : Nat} (hk : k ≤ 1) :
    (third2 c0 c1 k).toNat = (2 * c0.toNat + c1.toNat + k) / 3 := by
  have := c0.isLt; have := c1.isLt
  simp only [third2, BitVec.toNat_ofNat]
  omega

theorem third1_toNat (c0 c1 : Byte) {k : Nat} (hk : k ≤ 1) :
    (third1 c0 c1 k).toNat = (c0.toNat + 2 * c1.toNat + k) / 3 := by
  have := c0.isLt; have := c1.isLt
  simp only [third1, BitVec.toNat_ofNat]
  omega

theorem half_toNat (c0 c1 : Byte) {k : Nat} (hk : k ≤ 1) : (half c0 c1 k).toNat = (c0.toNat + c1.toNat + k) / 2 := by
  have := c0.isLt; have := c1.isLt
  simp only [half, BitVec.toNat_ofNat]
  omega

theorem roundAddend_le (rnd : Bool) : roundAddend rnd ≤ 1 := by cases rnd <;> decide

/-- An interpolation of two unpacked endpoints, channel by channel. -/
theorem blend_toNat (mix : Byte → Byte → Nat → Byte) (f : Nat → Nat → Nat) (e0 e1 : Half) (k : Nat)
    (h : ∀ c0 c1, (mix c0 c1 k).toNat = f c0.toNat c1.toNat) :
    (blend mix (unpackColor true e0 255) (unpackColor true e1 255) k).toNat = mixColors f e0.toNat e1.toNat := by
  simp [blend, unpackColor, rgba_toNat, laneR_rgba, laneG_rgba, laneB_rgba, h, expand5_toNat, expand6_toNat,
    red5_toNat, green6_toNat, blue5_toNat, mixColors]

/-- The palette in numbers (spec/42_ramps.md R121 to R123). -/
theorem palette_toNat (e0 e1 : Half) (k : Nat) (hk : k ≤ 1) (i : Nat) (hi : i < 4) :
    ((palette e0 e1 k)[i]).toNat = paletteEntry e0.toNat e1.toNat k i := by
  have h2 := blend_toNat third2 (fun a b => (2 * a + b + k) / 3) e0 e1 k fun c0 c1 => third2_toNat c0 c1 hk
  have h1 := blend_toNat third1 (fun a b => (a + 2 * b + k) / 3) e0 e1 k fun c0 c1 => third1_toNat c0 c1 hk
  have hh := blend_toNat half (fun a b => (a + b + k) / 2) e0 e1 k fun c0 c1 => half_toNat c0 c1 hk
  have u0 := unpackColor_scaled_toNat e0 255
  have u1 := unpackColor_scaled_toNat e1 255
  have hb : (255 : Byte).toNat = 255 := rfl
  rw [hb] at u0 u1
  by_cases hm : e1.toNat < e0.toNat
  · have hp : palette e0 e1 k = palette4 e0 e1 k := by simp [palette, fourColor, hm]
    rw [hp]
    interval_cases i
    · simpa [palette4, paletteEntry] using u0
    · simpa [palette4, paletteEntry] using u1
    · simpa [palette4, paletteEntry, hm] using h2
    · simpa [palette4, paletteEntry, hm] using h1
  · have hp : palette e0 e1 k = palette3 e0 e1 k := by simp [palette, fourColor, hm]
    rw [hp]
    interval_cases i
    · simpa [palette3, paletteEntry] using u0
    · simpa [palette3, paletteEntry] using u1
    · simpa [palette3, paletteEntry, hm] using hh
    · simp [palette3, paletteEntry, hm, rgba_toNat, rgbaNat]

theorem mixAlpha_toNat (l h : Byte) {wl wh d : Nat} (hw : wl + wh = d) :
    (mixAlpha l h wl wh d).toNat = (wl * l.toNat + wh * h.toNat) / d := by
  have hl : l.toNat ≤ 255 := by have := l.isLt; omega
  have hh : h.toNat ≤ 255 := by have := h.isLt; omega
  have hb : (wl * l.toNat + wh * h.toNat) / d < 256 := by
    have : wl * l.toNat + wh * h.toNat ≤ d * 255 := by
      calc wl * l.toNat + wh * h.toNat ≤ wl * 255 + wh * 255 :=
            Nat.add_le_add (Nat.mul_le_mul_left _ hl) (Nat.mul_le_mul_left _ hh)
        _ = d * 255 := by rw [← hw]; ring
    have := Nat.div_le_of_le_mul this
    omega
  simp only [mixAlpha, BitVec.toNat_ofNat]
  exact Nat.mod_eq_of_lt hb

/-- The alpha ramp in numbers (spec/42_ramps.md R127, R128). -/
theorem alphaRamp_toNat (l h : Byte) (i : Nat) (hi : i < 8) :
    ((alphaRamp l h)[i]).toNat = rampEntry l.toNat h.toNat i := by
  by_cases hm : h.toNat < l.toNat
  · interval_cases i <;> simp [alphaRamp, eightValue, hm, alphaRamp8, rampEntry, ramp8, mixAlpha_toNat]
  · interval_cases i <;> simp [alphaRamp, eightValue, hm, alphaRamp6, rampEntry, ramp6, mixAlpha_toNat]

end Sys2Proof.Machine
end

