-- ==== Sys2Proof/Laws/Decode.lean ====
section
/-! SUPPORT. The fields of a command word in natural numbers, an assembled word, and what a masked comparison says of
the fields (spec/30_encoding.md R61, R66). -/

namespace Sys2Proof

open Sys2Proof.Machine

/-! ## Fields -/

theorem cmdOp_toNat (w : Word) : (cmdOp w).toNat = w.toNat % 64 := by simp [cmdOp]
theorem cmdX_toNat (w : Word) : (cmdX w).toNat = w.toNat / 256 % 4 := by rw [cmdX, extract_toNat]; rfl
theorem cmdY_toNat (w : Word) : (cmdY w).toNat = w.toNat / 1024 % 4 := by rw [cmdY, extract_toNat]; rfl
theorem cmdFmt_toNat (w : Word) : (cmdFmt w).toNat = w.toNat / 4096 % 16 := by rw [cmdFmt, extract_toNat]; rfl
theorem cmdImm8_toNat (w : Word) : (cmdImm8 w).toNat = w.toNat / 65536 % 256 := by rw [cmdImm8, extract_toNat]; rfl

theorem getLsbD_toNat (w : Word) (n : Nat) : (w.getLsbD n).toNat = w.toNat / 2 ^ n % 2 := by
  rw [BitVec.getLsbD, Nat.testBit_eq_decide_div_mod_eq]
  rcases Nat.mod_two_eq_zero_or_one (w.toNat / 2 ^ n) with h | h <;> simp [h]

theorem cmdS_toNat (w : Word) : (cmdS w).toNat = w.toNat / 64 % 2 := getLsbD_toNat w 6
theorem cmdRnd_toNat (w : Word) : (cmdRnd w).toNat = w.toNat / 128 % 2 := getLsbD_toNat w 7

/-- A word's low six bits are its OP. -/
theorem opBits_eq (w : Word) : w &&& 0x3F = BitVec.ofNat 32 (w.toNat % 64) := by
  apply BitVec.eq_of_toNat_eq
  have := Nat.and_two_pow_sub_one_eq_mod w.toNat 6
  norm_num at this
  simp
  omega

theorem tagOfFlavor_flavorOfTag (tag : BitVec 4) : tagOfFlavor (flavorOfTag tag) = tag := by revert tag; decide
theorem flavorOfTag_wf (tag : BitVec 4) : (flavorOfTag tag).wf = true := by revert tag; decide

/-! ## Assembled words -/

theorem assembleFields_toNat (op : BitVec 6) (s r : Bool) (x y : BitVec 2) (f : BitVec 4) (i : BitVec 8) :
    (assembleFields op s r x y f i).toNat = op.toNat + 64 * s.toNat + 128 * r.toNat + 256 * x.toNat +
      1024 * y.toNat + 4096 * f.toNat + 65536 * i.toNat := by
  have h1 := op.isLt
  have h2 : (BitVec.ofBool s).toNat < 2 ^ 1 := (BitVec.ofBool s).isLt
  have h3 : (BitVec.ofBool r).toNat < 2 ^ 1 := (BitVec.ofBool r).isLt
  have h4 := x.isLt
  have h5 := y.isLt
  have h6 := f.isLt
  have h7 := i.isLt
  simp only [assembleFields, BitVec.toNat_append]
  rw [← Nat.shiftLeft_add_eq_or_of_lt h7, ← Nat.shiftLeft_add_eq_or_of_lt h6, ← Nat.shiftLeft_add_eq_or_of_lt h5,
    ← Nat.shiftLeft_add_eq_or_of_lt h4, ← Nat.shiftLeft_add_eq_or_of_lt h3, ← Nat.shiftLeft_add_eq_or_of_lt h2,
    ← Nat.shiftLeft_add_eq_or_of_lt h1]
  simp only [Nat.shiftLeft_eq, BitVec.toNat_ofBool, BitVec.toNat_ofNat]
  omega

/-- A word whose reserved byte is 0 is the assembly of its own fields. -/
theorem assembleFields_self (w : Word) (h : w.toNat < 16777216) :
    assembleFields (cmdOp w) (cmdS w) (cmdRnd w) (cmdX w) (cmdY w) (cmdFmt w) (cmdImm8 w) = w := by
  apply BitVec.eq_of_toNat_eq
  rw [assembleFields_toNat, cmdOp_toNat, cmdS_toNat, cmdRnd_toNat, cmdX_toNat, cmdY_toNat, cmdFmt_toNat, cmdImm8_toNat]
  omega

/-! ## Masked comparisons -/

/-- Where the mask has a bit, the word has the pattern's. -/
theorem getLsbD_of_mask {w m p : Word} (h : w &&& m = p) (n : Nat) (hn : m.getLsbD n = true) :
    w.getLsbD n = p.getLsbD n := by
  rw [← h, BitVec.getLsbD_and, hn, Bool.and_true]

/-- Where the mask has a whole field, the word has the pattern's. -/
theorem extract_of_mask {n : Nat} {w m p : Word} (h : w &&& m = p) (lo : Nat)
    (hm : m.extractLsb' lo n = BitVec.allOnes n) : w.extractLsb' lo n = p.extractLsb' lo n := by
  apply BitVec.eq_of_getLsbD_eq
  intro i hi
  rw [BitVec.getLsbD_extractLsb', BitVec.getLsbD_extractLsb']
  simp only [hi, decide_true, Bool.true_and]
  apply getLsbD_of_mask h
  have := congrArg (fun v => v.getLsbD i) hm
  simpa [BitVec.getLsbD_extractLsb', hi] using this

/-- A mask that has the reserved byte leaves none of it set. -/
theorem lt_of_mask {w m p : Word} (h : w &&& m = p) (hm : m.extractLsb' 24 8 = BitVec.allOnes 8)
    (hp : p.extractLsb' 24 8 = 0) : w.toNat < 16777216 := by
  have h1 := congrArg BitVec.toNat ((extract_of_mask h 24 hm).trans hp)
  rw [extract_toNat] at h1
  have h2 := w.isLt
  simp at h1
  omega

end Sys2Proof
end

