-- ==== Sys2Proof/Laws/Assembler.lean ====
section
/-! SUPPORT. The small lemmas of the assembler notation. -/

namespace Sys2Proof.Machine

/-- A value that was fitted is the line's. -/
theorem fitBits_toNat {n : Nat} {v : Option Nat} {b : BitVec n} (h : fitBits n v = some b) : b.toNat = v.getD 0 := by
  unfold fitBits at h
  split at h
  · rename_i hc
    cases h
    simp [Nat.mod_eq_of_lt hc]
  · cases h

/-- A value of n bits fits. -/
@[simp] theorem fitBits_some {n : Nat} (b : BitVec n) : fitBits n (some b.toNat) = some b := by
  simp [fitBits, b.isLt]

@[simp] theorem fitBits_none (n : Nat) : fitBits n none = some 0 := by
  simp [fitBits]

/-- The OP of an assembled word. -/
@[simp] theorem cmdOp_assembleFields (op : BitVec 6) (s r : Bool) (x y : BitVec 2) (f : BitVec 4) (i : BitVec 8) :
    cmdOp (assembleFields op s r x y f i) = op := by
  apply BitVec.eq_of_toNat_eq
  have := op.isLt
  rw [cmdOp_toNat, assembleFields_toNat]
  omega

end Sys2Proof.Machine
end

