-- ==== Sys2Proof/Laws/State.lean ====
section
/-! SUPPORT. What each update of the state does to each field. -/

namespace Sys2Proof.Machine

@[simp] theorem State.respond_rom (s : State) (resp : Response) : (s.respond resp).rom = s.rom := rfl
@[simp] theorem State.respond_status (s : State) (resp : Response) : (s.respond resp).status = s.status := rfl
@[simp] theorem State.respond_response (s : State) (resp : Response) : (s.respond resp).response = some resp := rfl
@[simp] theorem State.respond_hostMoves (s : State) (resp : Response) :
    (s.respond resp).hostMoves = s.hostMoves.tail := rfl

@[simp] theorem State.enterFault_rom (s : State) (q : Request) (code : FaultCode) :
    (s.enterFault q code).rom = s.rom := rfl
@[simp] theorem State.enterFault_status (s : State) (q : Request) (code : FaultCode) :
    (s.enterFault q code).status = faultStatus code (cmdOp q.cmd) := rfl
@[simp] theorem State.enterFault_response (s : State) (q : Request) (code : FaultCode) :
    (s.enterFault q code).response = some (Response.faulted code) := rfl
@[simp] theorem State.enterFault_hostMoves (s : State) (q : Request) (code : FaultCode) :
    (s.enterFault q code).hostMoves = s.hostMoves.tail := rfl

@[simp] theorem State.takeReset_rom (s : State) : s.takeReset.rom = s.rom := rfl
@[simp] theorem State.takeReset_status (s : State) : s.takeReset.status = 0 := rfl
@[simp] theorem State.takeReset_response (s : State) : s.takeReset.response = none := rfl
@[simp] theorem State.takeReset_hostMoves (s : State) : s.takeReset.hostMoves = s.hostMoves.tail := rfl

@[simp] theorem State.reset_rom : State.reset.rom = romConstants := rfl
@[simp] theorem State.reset_status : State.reset.status = 0 := rfl
@[simp] theorem State.reset_response : State.reset.response = none := rfl
@[simp] theorem State.reset_hostMoves : State.reset.hostMoves = [] := rfl

end Sys2Proof.Machine
end

