-- ==== Sys2Proof/Laws/Ops.lean ====
section
/-! SUPPORT. What the shared operations can do, said once: the course of a request, and a step. -/

namespace Sys2Proof.Machine

open Sys2Proof.Safety

/-! ## STATUS -/

theorem statusFaulted_eq (w : Word) : statusFaulted w = w.getLsbD 0 := rfl

/-- STATUS after fault entry as a number (spec/60_exceptions.md R225). -/
theorem faultStatus_eq (code : FaultCode) (cmd : Word) :
    faultStatus code (cmdOp cmd) = BitVec.ofNat 32 (1 + 16 * codeNumber code + 256 * (cmd.toNat % 64)) := by
  have h : (cmdOp cmd).toNat = cmd.toNat % 64 := by simp [cmdOp]
  rw [← h]
  generalize cmdOp cmd = op
  revert code op
  intro code
  cases code <;> decide

theorem fcodeOf_eq (code : FaultCode) : fcodeOf code = BitVec.ofNat 4 (codeNumber code) := by cases code <;> rfl

/-! ## The course of a request -/

/-- Everything that perform can do. -/
theorem perform_cases {s : State} {op : Request → Except FaultCode Response} :
    (∃ q rest, Presents s q rest ∧ s.status.getLsbD 0 = true ∧ perform s op = .fault .stuckUntilReset) ∨
    (∃ q rest resp, Ready s q rest ∧ op q = .ok resp ∧ perform s op = .next (s.respond resp)) ∨
    (∃ q rest code, Ready s q rest ∧ op q = .error code ∧ perform s op = .next (s.enterFault q code)) ∨
    ((∀ q rest, ¬Presents s q rest) ∧ perform s op = .refused .noRequestPresented) := by
  unfold perform Ready Presents statusFaulted
  split
  · rename_i q rest hm
    cases hf : s.status.getLsbD 0 with
    | true => exact .inl ⟨q, rest, hm, rfl, by simp⟩
    | false =>
      cases ho : op q with
      | ok resp => exact .inr (.inl ⟨q, rest, resp, ⟨hm, rfl⟩, ho, by simp⟩)
      | error code => exact .inr (.inr (.inl ⟨q, rest, code, ⟨hm, rfl⟩, ho, by simp⟩))
  · rename_i hm
    exact .inr (.inr (.inr ⟨fun q rest h => hm q rest h, rfl⟩))

/-- A request to a faulted unit is stuck. -/
theorem perform_faulted {s : State} {q : Request} {rest : List HostMove} (op : Request → Except FaultCode Response)
    (h : Presents s q rest) (hf : s.status.getLsbD 0 = true) : perform s op = .fault .stuckUntilReset := by
  unfold Presents at h
  unfold perform
  rw [h]
  simp only [statusFaulted, hf, if_true]

/-- A request to a unit that is not faulted is the operation's to answer or to fault. -/
theorem perform_ready {s : State} {q : Request} {rest : List HostMove} (op : Request → Except FaultCode Response)
    (h : Ready s q rest) :
    perform s op =
      match op q with
      | .ok resp => .next { s with response := some resp, hostMoves := rest }
      | .error code => .next
          { s with
            status := faultStatus code (cmdOp q.cmd)
            response := some (Response.faulted code)
            hostMoves := rest } := by
  obtain ⟨hm, hf⟩ := h
  unfold Presents at hm
  unfold perform
  rw [hm]
  simp only [statusFaulted, hf, Bool.false_eq_true, if_false]
  cases op q with
  | ok resp => simp [State.respond, hm]
  | error code => simp [State.enterFault, hm]

/-- A request that the operation answers. -/
theorem perform_ok {s : State} {q : Request} {rest : List HostMove} {op : Request → Except FaultCode Response}
    {resp : Response} (h : Ready s q rest) (ho : op q = .ok resp) : AnswersWith (perform s op) s rest resp := by
  rw [AnswersWith, perform_ready op h, ho]

/-- A request that the operation faults. -/
theorem perform_error {s : State} {q : Request} {rest : List HostMove} {op : Request → Except FaultCode Response}
    {code : FaultCode} (h : Ready s q rest) (ho : op q = .error code) : Faults (perform s op) s rest q code := by
  rw [Faults, perform_ready op h, ho]
  simp [faultStatus_eq, Response.faulted, fcodeOf_eq, zeroVector]

/-- An answer in R alone. -/
theorem perform_scalar {s : State} {q : Request} {rest : List HostMove} {op : Request → Except FaultCode Response}
    {r : Word} {n : Nat} (h : Ready s q rest) (ho : op q = .ok (.scalar r)) (hr : r.toNat = n) :
    AnswersScalar (perform s op) s rest n :=
  ⟨r, hr, perform_ok h ho⟩

/-- An answer in BO alone. -/
theorem perform_block {s : State} {q : Request} {rest : List HostMove} {op : Request → Except FaultCode Response}
    {bo : Block} {P : Block → Prop} (h : Ready s q rest) (ho : op q = .ok (.block bo)) (hP : P bo) :
    AnswersBlock (perform s op) s rest P :=
  ⟨bo, hP, perform_ok h ho⟩

/-- An answer in CNT and V alone. -/
theorem perform_vector {s : State} {q : Request} {rest : List HostMove} {op : Request → Except FaultCode Response}
    {cnt : BitVec 4} {v : Vector Word 16} {n : Nat} {f : Nat → Nat} (h : Ready s q rest)
    (ho : op q = .ok (.vector cnt v)) (hn : cnt.toNat = n) (hv : ∀ (i : Nat) (hi : i < 16), v[i].toNat = f i) :
    AnswersVector (perform s op) s rest n f :=
  ⟨cnt, v, hn, hv, perform_ok h ho⟩

/-- An entry of a padded vector. -/
theorem padVector_getElem {α : Type} {n : Nat} (word : α → Word) (p : Vector α n) (i : Nat) (hi : i < 16) :
    (padVector word p)[i] = if h : i < n then word p[i] else 0 := by
  simp [padVector]

/-! ## exec and step -/

/-- Every instruction takes the course of a request; what differs is its operation on the request and the tables. -/
theorem exec_is_perform (i : Instr) :
    ∃ op : RomTables → Request → Except FaultCode Response, ∀ s, exec i s = perform s (op s.rom) := by
  cases i with
  | d1fl idx => exact ⟨fun rom _ => remap rom.d1FromLinear idx, fun _ => rfl⟩
  | d1tl idx => exact ⟨fun rom _ => remap rom.d1ToLinear idx, fun _ => rfl⟩
  | d5fl idx => exact ⟨fun rom _ => remap rom.d5FromLinear idx, fun _ => rfl⟩
  | d5tl idx => exact ⟨fun rom _ => remap rom.d5ToLinear idx, fun _ => rfl⟩
  | inv6 idx => exact ⟨fun rom _ => remap rom.inv6 idx, fun _ => rfl⟩
  | inv8 idx => exact ⟨fun rom _ => remap rom.inv8 idx, fun _ => rfl⟩
  | _ =>
    simp only [exec,
      execUnpk565, execPk565, execPkep32, execUnpkep32, execPkep16, execUnpkep16, execPal1, execPalnv,
      execAramp, execArampq, execGeta3, execSeta3, execGcep, execScep, execGcsel, execScsel, execGaep,
      execSaep, execGasel, execSasel, execDect, execDecb, execFbpp, execFalpha, execFblk]
    exact ⟨fun _ => _, fun _ => rfl⟩

/-- Everything that a step on a presented request can do: the course of a request, for one operation that the command
word and the tables alone choose. -/
theorem step_is_perform (cmd : Word) :
    ∃ op : RomTables → Request → Except FaultCode Response,
      ∀ s q rest, Presents s q rest → q.cmd = cmd → step s = perform s (op s.rom) := by
  cases hd : decode cmd with
  | ok i =>
    obtain ⟨op, hop⟩ := exec_is_perform i
    refine ⟨op, fun s q rest h hc => ?_⟩
    unfold Presents at h
    simp [step, h, hc, hd, hop]
  | error code =>
    refine ⟨fun _ _ => .error code, fun s q rest h hc => ?_⟩
    unfold Presents at h
    simp [step, h, hc, hd, raiseAtDecode]

/-- Everything that a step can do when it answers a next state. -/
theorem step_cases {s t : State} (h : step s = .next t) :
    (s.hostMoves = [] ∧ t = s) ∨
    (∃ inProgress rest, s.hostMoves = .reset inProgress :: rest ∧ t = s.takeReset) ∨
    (∃ q rest resp, Ready s q rest ∧ t = s.respond resp) ∨
    ∃ q rest code, Ready s q rest ∧ t = s.enterFault q code := by
  cases hm : s.hostMoves with
  | nil =>
    simp only [step, hm, idleStep] at h
    exact .inl ⟨rfl, by injection h with h; exact h.symm⟩
  | cons m rest =>
    cases m with
    | reset inProgress =>
      simp only [step, hm, resetStep] at h
      exact .inr (.inl ⟨inProgress, rest, rfl, by injection h with h; exact h.symm⟩)
    | request q =>
      obtain ⟨op, hop⟩ := step_is_perform q.cmd
      rw [hop s q rest hm rfl] at h
      rcases perform_cases (s := s) (op := op s.rom) with
        ⟨_, _, _, _, hp⟩ | ⟨q', rest', resp, hr, _, hp⟩ | ⟨q', rest', code, hr, _, hp⟩ | ⟨_, hp⟩
      · rw [hp] at h; cases h
      · rw [hp] at h; injection h with h
        exact .inr (.inr (.inl ⟨q', rest', resp, hr, h.symm⟩))
      · rw [hp] at h; injection h with h
        exact .inr (.inr (.inr ⟨q', rest', code, hr, h.symm⟩))
      · rw [hp] at h; cases h

end Sys2Proof.Machine
end

