-- ==== Sys2Proof/Laws/Operands.lean ====
section
/-! SUPPORT. The checks and the block writes, each said once. -/

namespace Sys2Proof.Machine

open Sys2Proof.Safety

/-! ## Checks -/

theorem checkMax_above {code : FaultCode} {v bound : Nat} {go : Except FaultCode Response} (h : bound < v) :
    checkMax code v bound go = .error code := by
  simp [checkMax, h]

theorem checkMax_within {code : FaultCode} {v bound : Nat} {go : Except FaultCode Response} (h : ¬bound < v) :
    checkMax code v bound go = go := by
  simp [checkMax, h]

/-- A flavor either has a color block at its base, or is not taken. -/
theorem onColorBlock_eq (f : Flavor) (go : Nat → Except FaultCode Response) :
    onColorBlock f go = match baseOf f with | some o => go o | none => .error .badFormat := by
  cases f <;> rfl

theorem onAlphaBlock_ramp {f : Flavor} {go : Except FaultCode Response} (h : HasRamp f) : onAlphaBlock f go = go := by
  rcases h with rfl | rfl <;> rfl

theorem onAlphaBlock_other {f : Flavor} {go : Except FaultCode Response} (h : ¬HasRamp f) :
    onAlphaBlock f go = .error .badFormat := by
  cases f <;> simp [HasRamp] at h <;> rfl

theorem remap_within {n w : Nat} {table : Vector (BitVec w) n} {idx : BitVec 8} (h : idx.toNat < n) :
    remap table idx = .ok (.scalar (table[idx.toNat].setWidth 32)) := by
  simp [remap, h]

theorem remap_above {n w : Nat} {table : Vector (BitVec w) n} {idx : BitVec 8} (h : n ≤ idx.toNat) :
    remap table idx = .error .badIndex := by
  simp [remap, Nat.not_lt.2 h]

/-- A known flavor has a texel decoder. -/
theorem texelDecoder_known {f : Flavor} (h : known f = true) : ∃ texel, texelDecoder f = .ok texel := by
  cases f <;> first | exact ⟨_, rfl⟩ | cases h

theorem texelDecoder_unknown {f : Flavor} (h : ¬known f = true) : texelDecoder f = .error .badFormat := by
  cases f <;> first | rfl | exact absurd rfl h

/-! ## Block writes -/

/-- The field that was written. -/
theorem blkField_writeBlkField (b : Block) {w : Nat} (o : Nat) (f : BitVec w) (h : 8 * o + w ≤ 128) :
    blkField (writeBlkField b o f) o w = f :=
  extract_writeField_same b (8 * o) f h

/-- A byte outside the n bytes that were written. -/
theorem blockByte_writeBlkField (b : Block) {w : Nat} (o : Nat) (f : BitVec w) (j n : Nat) (hw : w = 8 * n)
    (h : ¬(o ≤ j ∧ j < o + n)) : blockByte (writeBlkField b o f) j = blockByte b j := by
  rw [← blkByte_toNat, ← blkByte_toNat]
  congr 1
  apply extract_writeField_apart
  omega

/-- The place of a nibble as one bit number. -/
theorem writeNibble_eq (b : Block) (x y : BitVec 2) (v : BitVec 4) :
    writeNibble b x y v = writeField b (8 * (y.toNat * 2 + x.toNat / 2) + 4 * (x.toNat % 2)) v := by
  unfold writeNibble
  rcases Nat.mod_two_eq_zero_or_one x.toNat with e | e <;> simp [e]

theorem nibble_eq (b : Block) (x y : BitVec 2) :
    nibble b x y = b.extractLsb' (8 * (y.toNat * 2 + x.toNat / 2) + 4 * (x.toNat % 2)) 4 := by
  apply BitVec.eq_of_toNat_eq
  unfold nibble blkByte
  rw [extract_toNat, extract_toNat, extract_toNat]
  have : x.toNat % 2 = 0 ∨ x.toNat % 2 = 1 := by omega
  rcases this with e | e <;>
    rw [e, pow_add, ← Nat.div_div_eq_div_mul] <;> generalize b.toNat / _ = k <;> norm_num <;> omega

/-- Every nibble after one is written (spec/44_dxt3_alpha.md R163). -/
theorem nibble_writeNibble (b : Block) (x y x' y' : BitVec 2) (v : BitVec 4) :
    nibble (writeNibble b x y v) x' y' = if x' = x ∧ y' = y then v else nibble b x' y' := by
  have h1 := x.isLt
  have h2 := y.isLt
  have h3 := x'.isLt
  have h4 := y'.isLt
  rw [nibble_eq, nibble_eq, writeNibble_eq]
  split
  · rename_i e
    obtain ⟨rfl, rfl⟩ := e
    exact extract_writeField_same b _ v (by omega)
  · rename_i e
    apply extract_writeField_apart
    have : ¬(x'.toNat = x.toNat ∧ y'.toNat = y.toNat) := fun ⟨hx, hy⟩ =>
      e ⟨BitVec.eq_of_toNat_eq hx, BitVec.eq_of_toNat_eq hy⟩
    omega

end Sys2Proof.Machine
end

