-- ==== Sys2Proof/Laws/PerInstr.lean ====
section
/-! SUPPORT. The family EncodedRow: the word of every instruction selects a row of the opcode map by its OP, matches that
row's mask, and has its reserved byte 0 (spec/30_encoding.md R60, R63, R66). -/

namespace Sys2Proof.Laws.EncodedRow

open Sys2Proof Sys2Proof.Safety

/-- The encoded word matches a row of the opcode map whose match is the word's OP, and the reserved byte is 0. -/
def Statement (i : Instr) : Prop :=
  ∃ row ∈ opcodeRows, encode i &&& row.1 = row.2 ∧ encode i &&& 0x3F = row.2 ∧ encode i &&& 0xFF000000 = 0

theorem unpk565 (scaled : Bool) : Statement (.unpk565 scaled) := by
  refine ⟨(0xFFFFFFBF, 0x01), by simp [opcodeRows], ?_⟩
  revert scaled
  decide

theorem pk565 (scaled : Bool) (bias : BitVec 8) : Statement (.pk565 scaled bias) := by
  refine ⟨(0xFF00FFBF, 0x02), by simp [opcodeRows], ?_⟩
  revert scaled bias
  decide

theorem pkep32 : Statement .pkep32 := by
  refine ⟨(0xFFFFFFFF, 0x03), by simp [opcodeRows], ?_⟩
  decide

theorem unpkep32 (idx : BitVec 8) : Statement (.unpkep32 idx) := by
  refine ⟨(0xFF00FFFF, 0x04), by simp [opcodeRows], ?_⟩
  revert idx
  decide

theorem pkep16 : Statement .pkep16 := by
  refine ⟨(0xFFFFFFFF, 0x05), by simp [opcodeRows], ?_⟩
  decide

theorem unpkep16 (idx : BitVec 8) : Statement (.unpkep16 idx) := by
  refine ⟨(0xFF00FFFF, 0x06), by simp [opcodeRows], ?_⟩
  revert idx
  decide

theorem pal1 (rnd : Bool) : Statement (.pal1 rnd) := by
  refine ⟨(0xFFFFFF7F, 0x08), by simp [opcodeRows], ?_⟩
  revert rnd
  decide

theorem palnv : Statement .palnv := by
  refine ⟨(0xFFFFFFFF, 0x09), by simp [opcodeRows], ?_⟩
  decide

theorem aramp : Statement .aramp := by
  refine ⟨(0xFFFFFFFF, 0x0A), by simp [opcodeRows], ?_⟩
  decide

theorem arampq : Statement .arampq := by
  refine ⟨(0xFFFFFFFF, 0x0B), by simp [opcodeRows], ?_⟩
  decide

theorem d1fl (idx : BitVec 8) : Statement (.d1fl idx) := by
  refine ⟨(0xFF00FFFF, 0x10), by simp [opcodeRows], ?_⟩
  revert idx
  decide

theorem d1tl (idx : BitVec 8) : Statement (.d1tl idx) := by
  refine ⟨(0xFF00FFFF, 0x11), by simp [opcodeRows], ?_⟩
  revert idx
  decide

theorem d5fl (idx : BitVec 8) : Statement (.d5fl idx) := by
  refine ⟨(0xFF00FFFF, 0x12), by simp [opcodeRows], ?_⟩
  revert idx
  decide

theorem d5tl (idx : BitVec 8) : Statement (.d5tl idx) := by
  refine ⟨(0xFF00FFFF, 0x13), by simp [opcodeRows], ?_⟩
  revert idx
  decide

theorem inv6 (idx : BitVec 8) : Statement (.inv6 idx) := by
  refine ⟨(0xFF00FFFF, 0x14), by simp [opcodeRows], ?_⟩
  revert idx
  decide

theorem inv8 (idx : BitVec 8) : Statement (.inv8 idx) := by
  refine ⟨(0xFF00FFFF, 0x15), by simp [opcodeRows], ?_⟩
  revert idx
  decide

theorem geta3 (scaled : Bool) (x : BitVec 2) (y : BitVec 2) : Statement (.geta3 scaled x y) := by
  refine ⟨(0xFFFFF0BF, 0x18), by simp [opcodeRows], ?_⟩
  revert scaled x y
  decide

theorem seta3 (scaled : Bool) (x : BitVec 2) (y : BitVec 2) : Statement (.seta3 scaled x y) := by
  refine ⟨(0xFFFFF0BF, 0x19), by simp [opcodeRows], ?_⟩
  revert scaled x y
  decide

theorem gcep (fmt : Flavor) : Statement (.gcep fmt) := by
  refine ⟨(0xFFFF0FFF, 0x20), by simp [opcodeRows], ?_⟩
  simp only [encode, encodeFmt]
  generalize tagOfFlavor fmt = tag
  revert tag
  decide

theorem scep (fmt : Flavor) : Statement (.scep fmt) := by
  refine ⟨(0xFFFF0FFF, 0x21), by simp [opcodeRows], ?_⟩
  simp only [encode, encodeFmt]
  generalize tagOfFlavor fmt = tag
  revert tag
  decide

theorem gcsel (fmt : Flavor) (x : BitVec 2) (y : BitVec 2) : Statement (.gcsel fmt x y) := by
  refine ⟨(0xFFFF00FF, 0x22), by simp [opcodeRows], ?_⟩
  simp only [encode, encodeTexel]
  generalize tagOfFlavor fmt = tag
  revert tag x y
  decide

theorem scsel (fmt : Flavor) (x : BitVec 2) (y : BitVec 2) : Statement (.scsel fmt x y) := by
  refine ⟨(0xFFFF00FF, 0x23), by simp [opcodeRows], ?_⟩
  simp only [encode, encodeTexel]
  generalize tagOfFlavor fmt = tag
  revert tag x y
  decide

theorem gaep (fmt : Flavor) : Statement (.gaep fmt) := by
  refine ⟨(0xFFFF0FFF, 0x24), by simp [opcodeRows], ?_⟩
  simp only [encode, encodeFmt]
  generalize tagOfFlavor fmt = tag
  revert tag
  decide

theorem saep (fmt : Flavor) : Statement (.saep fmt) := by
  refine ⟨(0xFFFF0FFF, 0x25), by simp [opcodeRows], ?_⟩
  simp only [encode, encodeFmt]
  generalize tagOfFlavor fmt = tag
  revert tag
  decide

theorem gasel (fmt : Flavor) (x : BitVec 2) (y : BitVec 2) : Statement (.gasel fmt x y) := by
  refine ⟨(0xFFFF00FF, 0x26), by simp [opcodeRows], ?_⟩
  simp only [encode, encodeTexel]
  generalize tagOfFlavor fmt = tag
  revert tag x y
  decide

theorem sasel (fmt : Flavor) (x : BitVec 2) (y : BitVec 2) : Statement (.sasel fmt x y) := by
  refine ⟨(0xFFFF00FF, 0x27), by simp [opcodeRows], ?_⟩
  simp only [encode, encodeTexel]
  generalize tagOfFlavor fmt = tag
  revert tag x y
  decide

theorem dect (fmt : Flavor) (x : BitVec 2) (y : BitVec 2) (rnd : Bool) : Statement (.dect fmt x y rnd) := by
  refine ⟨(0xFFFF007F, 0x28), by simp [opcodeRows], ?_⟩
  simp only [encode]
  generalize tagOfFlavor fmt = tag
  revert tag x y rnd
  decide

theorem decb (fmt : Flavor) (rnd : Bool) : Statement (.decb fmt rnd) := by
  refine ⟨(0xFFFF0F7F, 0x29), by simp [opcodeRows], ?_⟩
  simp only [encode]
  generalize tagOfFlavor fmt = tag
  revert tag rnd
  decide

theorem fbpp (fmt : Flavor) : Statement (.fbpp fmt) := by
  refine ⟨(0xFFFF0FFF, 0x30), by simp [opcodeRows], ?_⟩
  simp only [encode, encodeFmt]
  generalize tagOfFlavor fmt = tag
  revert tag
  decide

theorem falpha (fmt : Flavor) : Statement (.falpha fmt) := by
  refine ⟨(0xFFFF0FFF, 0x31), by simp [opcodeRows], ?_⟩
  simp only [encode, encodeFmt]
  generalize tagOfFlavor fmt = tag
  revert tag
  decide

theorem fblk (fmt : Flavor) : Statement (.fblk fmt) := by
  refine ⟨(0xFFFF0FFF, 0x32), by simp [opcodeRows], ?_⟩
  simp only [encode, encodeFmt]
  generalize tagOfFlavor fmt = tag
  revert tag
  decide

end Sys2Proof.Laws.EncodedRow
end

