-- ==== Sys2Proof/Laws/Run.lean ====
section
/-! SUPPORT. What one step of a run does to the request of its move, and a run step by step. -/

namespace Sys2Proof.Machine

open Sys2Proof.Safety

@[simp] theorem Served.request_answered (q : Request) (resp : Response) : (Served.answered q resp).request = q := rfl
@[simp] theorem Served.request_discarded (q : Request) : (Served.discarded q).request = q := rfl
@[simp] theorem Served.request_notAccepted (q : Request) : (Served.notAccepted q).request = q := rfl
@[simp] theorem HostMove.presents_request (q : Request) : (HostMove.request q).presents = some q := rfl
@[simp] theorem HostMove.presents_reset (inProgress : Option Request) :
    (HostMove.reset inProgress).presents = inProgress := rfl

@[simp] theorem serve_zero (s : State) : serve 0 s = some (s, []) := rfl

/-- A run of one more step. -/
theorem serve_succ {n : Nat} {s t : State} (h : step s = .next t) :
    serve (n + 1) s = (serve n t).map fun p => (p.1, servedBy s t ++ p.2) := by
  simp [serve, h]

/-- The first step of a run that does not stop. -/
theorem serve_succ_cases {n : Nat} {s t : State} {served : List Served} (h : serve (n + 1) s = some (t, served)) :
    ∃ s' later, step s = .next s' ∧ serve n s' = some (t, later) ∧ served = servedBy s s' ++ later := by
  unfold serve at h
  split at h
  · rename_i s' hs
    cases hr : serve n s' with
    | none => simp [hr] at h
    | some p =>
      simp only [hr, Option.map_some, Option.some.injEq, Prod.mk.injEq] at h
      exact ⟨s', p.2, hs, by simp [hr, ← h.1], h.2.symm⟩
  · cases h
  · cases h

/-- The host's own run, one step more. -/
theorem core_run_succ {n : Nat} {s t : State} (h : step s = .next t) :
    Host.Core.run core (n + 1) s = Host.Core.run core n t := by
  have e : core.step s = .next t := h
  simp only [Host.Core.run]
  simp only [e]

/-- A request to a unit that is not faulted is answered. -/
theorem servedBy_request {s t : State} {q : Request} {rest : List HostMove} {resp : Response}
    (h : s.hostMoves = .request q :: rest) (ht : t.response = some resp) : servedBy s t = [.answered q resp] := by
  simp [servedBy, h, ht]

/-- A reset that takes a request with it. -/
theorem servedBy_reset {s t : State} {q : Request} {rest : List HostMove} (h : s.hostMoves = .reset (some q) :: rest) :
    servedBy s t = if statusFaulted s.status then [.notAccepted q] else [.discarded q] := by
  unfold servedBy
  rw [h]

theorem servedBy_reset_none {s t : State} {rest : List HostMove} (h : s.hostMoves = .reset none :: rest) :
    servedBy s t = [] := by
  unfold servedBy
  rw [h]

theorem servedBy_idle {s t : State} (h : s.hostMoves = []) : servedBy s t = [] := by
  unfold servedBy
  rw [h]

end Sys2Proof.Machine
end

