-- ==== Sys2Proof/Tests/Slice0.lean ====
section
/-! SUPPORT. Tests: the checks of WellFormed, the decoder on words written out by hand from the opcode map
(spec/30_encoding.md R61, R66), one step for each operation with results from spec/95_test_vectors.md, and for each
obligation with hypotheses a state and operands that meet them. -/

namespace Sys2Proof.Tests

open Sys2Proof Sys2Proof.Machine Sys2Proof.Safety

/-! ## Helpers -/

/-- A block from its bytes, byte 0 first, the rest 0. -/
def blk (bytes : List Nat) : Block := bytes.foldr (fun n acc => acc * 256 + BitVec.ofNat 128 n) 0

/-- A request. -/
def req (cmd a b : Word) (bytes : List Nat) : Request := { cmd := cmd, a := a, b := b, blk := blk bytes }

/-- The unit after reset with one request presented. -/
def unit (q : Request) : State := { State.reset with hostMoves := [.request q] }

/-- The response to one request from reset. -/
def ask (cmd a b : Word) (bytes : List Nat) : Option Response := answered (step (unit (req cmd a b bytes)))

def askR (cmd a b : Word) (bytes : List Nat) : Option Word := (ask cmd a b bytes).map Response.r
def askBo (cmd a : Word) (bytes : List Nat) : Option Block := (ask cmd a 0 bytes).map Response.bo

/-- CNT and the entries of V that the test names. -/
def askV (cmd a b : Word) (bytes : List Nat) (n : Nat) : Option (BitVec 4 × List Word) :=
  (ask cmd a b bytes).map fun r => (r.cnt, r.v.toList.take n)

/-- FCODE and the STATUS that is left, where the response reports a fault. -/
def askFault (cmd a b : Word) : Option (BitVec 4 × Word) :=
  match step (unit (req cmd a b [])) with
  | .next t => t.response.bind fun r => if r.fault then some (r.fcode, t.readStatus) else none
  | .fault _ => none
  | .refused _ => none

theorem ready_unit (q : Request) : Ready (unit q) q [] := ⟨rfl, by simp [unit, State.reset]⟩

/-! ## WellFormed: an ill-formed term for each operation that has a flavor -/

/-- The tags 0 to 4 are the known flavors' (R64). -/
theorem test_wf_refuses_known_tags : ∀ tag : BitVec 4, (Flavor.unknown tag).wf = decide (5 ≤ tag.toNat) := by decide

theorem test_wf_gcep : (Instr.gcep (.unknown 4)).wf = false ∧ (Instr.gcep (.unknown 5)).wf = true := by decide

theorem test_wf_scep : (Instr.scep (.unknown 4)).wf = false ∧ (Instr.scep (.unknown 5)).wf = true := by decide

theorem test_wf_gaep : (Instr.gaep (.unknown 4)).wf = false ∧ (Instr.gaep (.unknown 5)).wf = true := by decide

theorem test_wf_saep : (Instr.saep (.unknown 4)).wf = false ∧ (Instr.saep (.unknown 5)).wf = true := by decide

theorem test_wf_fbpp : (Instr.fbpp (.unknown 4)).wf = false ∧ (Instr.fbpp (.unknown 5)).wf = true := by decide

theorem test_wf_falpha : (Instr.falpha (.unknown 4)).wf = false ∧ (Instr.falpha (.unknown 5)).wf = true := by decide

theorem test_wf_fblk : (Instr.fblk (.unknown 4)).wf = false ∧ (Instr.fblk (.unknown 5)).wf = true := by decide

theorem test_wf_gcsel :
    (Instr.gcsel (.unknown 4) 0 0).wf = false ∧ (Instr.gcsel (.unknown 5) 0 0).wf = true := by decide

theorem test_wf_scsel :
    (Instr.scsel (.unknown 4) 0 0).wf = false ∧ (Instr.scsel (.unknown 5) 0 0).wf = true := by decide

theorem test_wf_gasel :
    (Instr.gasel (.unknown 4) 0 0).wf = false ∧ (Instr.gasel (.unknown 5) 0 0).wf = true := by decide

theorem test_wf_sasel :
    (Instr.sasel (.unknown 4) 0 0).wf = false ∧ (Instr.sasel (.unknown 5) 0 0).wf = true := by decide

theorem test_wf_dect :
    (Instr.dect (.unknown 4) 0 0 false).wf = false ∧ (Instr.dect (.unknown 5) 0 0 false).wf = true := by decide

theorem test_wf_decb :
    (Instr.decb (.unknown 4) false).wf = false ∧ (Instr.decb (.unknown 5) false).wf = true := by decide

/-! ## Decode: one word for each constructor, its fields written out from the opcode map -/

theorem test_decode_unpk565 : decode 0b00000000000000000000000001000001 = .ok (.unpk565 true) := by decide

theorem test_decode_pk565 : decode 0b00000000100000000000000001000010 = .ok (.pk565 true 128) := by decide

theorem test_decode_pkep32 : decode 0b00000000000000000000000000000011 = .ok .pkep32 := by decide

theorem test_decode_unpkep32 : decode 0b00000000000000010000000000000100 = .ok (.unpkep32 1) := by decide

theorem test_decode_pkep16 : decode 0b00000000000000000000000000000101 = .ok .pkep16 := by decide

theorem test_decode_unpkep16 : decode 0b00000000111111110000000000000110 = .ok (.unpkep16 255) := by decide

theorem test_decode_pal1 : decode 0b00000000000000000000000010001000 = .ok (.pal1 true) := by decide

theorem test_decode_palnv : decode 0b00000000000000000000000000001001 = .ok .palnv := by decide

theorem test_decode_aramp : decode 0b00000000000000000000000000001010 = .ok .aramp := by decide

theorem test_decode_arampq : decode 0b00000000000000000000000000001011 = .ok .arampq := by decide

theorem test_decode_d1fl : decode 0b00000000000000110000000000010000 = .ok (.d1fl 3) := by decide

theorem test_decode_d1tl : decode 0b00000000000000100000000000010001 = .ok (.d1tl 2) := by decide

theorem test_decode_d5fl : decode 0b00000000000001110000000000010010 = .ok (.d5fl 7) := by decide

theorem test_decode_d5tl : decode 0b00000000000001100000000000010011 = .ok (.d5tl 6) := by decide

theorem test_decode_inv6 : decode 0b00000000000001010000000000010100 = .ok (.inv6 5) := by decide

theorem test_decode_inv8 : decode 0b00000000000010000000000000010101 = .ok (.inv8 8) := by decide

theorem test_decode_geta3 : decode 0b00000000000000000000111001011000 = .ok (.geta3 true 2 3) := by decide

theorem test_decode_seta3 : decode 0b00000000000000000000000100011001 = .ok (.seta3 false 1 0) := by decide

theorem test_decode_gcep : decode 0b00000000000000000010000000100000 = .ok (.gcep .dxt3) := by decide

theorem test_decode_scep : decode 0b00000000000000000011000000100001 = .ok (.scep .dxt5) := by decide

theorem test_decode_gcsel : decode 0b00000000000000000000000100100010 = .ok (.gcsel .dxt1 1 0) := by decide

theorem test_decode_scsel : decode 0b00000000000000000001101100100011 = .ok (.scsel .dxt1a 3 2) := by decide

theorem test_decode_gaep : decode 0b00000000000000000100000000100100 = .ok (.gaep .dxt5a) := by decide

theorem test_decode_saep : decode 0b00000000000000000011000000100101 = .ok (.saep .dxt5) := by decide

theorem test_decode_gasel : decode 0b00000000000000000011010100100110 = .ok (.gasel .dxt5 1 1) := by decide

theorem test_decode_sasel : decode 0b00000000000000000100011000100111 = .ok (.sasel .dxt5a 2 1) := by decide

theorem test_decode_dect : decode 0b00000000000000000001011010101000 = .ok (.dect .dxt1a 2 1 true) := by decide

theorem test_decode_decb : decode 0b00000000000000000010000010101001 = .ok (.decb .dxt3 true) := by decide

theorem test_decode_fbpp : decode 0b00000000000000000111000000110000 = .ok (.fbpp (.unknown 7)) := by decide

theorem test_decode_falpha : decode 0b00000000000000000001000000110001 = .ok (.falpha .dxt1a) := by decide

theorem test_decode_fblk : decode 0b00000000000000001111000000110010 = .ok (.fblk (.unknown 15)) := by decide

/-- V9: an unassigned OP comes before the reserved byte. -/
theorem test_decode_unassigned : decode 0x0100003F = .error .illegalOpcode := by decide

/-- V9: the reserved byte and an unused field. -/
theorem test_decode_reserved :
    decode 0x01000001 = .error .reservedField ∧ decode 0x00000081 = .error .reservedField := by decide

/-- The opcode table's numbering is CMD's own. -/
theorem test_table_word : decodeTableWord 32 0x3527 = some (.sasel .dxt5 1 1) := by decide

/-! ## Steps -/

/-- V8: the step after withFetchWord runs the instruction, FBPP of DXT1. -/
theorem test_first_instruction : answered (step (State.reset.withFetchWord 32 0x30)) = some (.scalar 4) := by decide

/-- L3.3, steps 4 and 5: after a fault, reset drops the request that is not accepted and clears STATUS. -/
theorem test_reset_drops_a_request :
    step { unit (req 0x30 0 0 []) with
      status := 0x351, hostMoves := [.reset (some (req 0x30 0 0 [])), .request (req 0x30 0 0 [])] }
    = .next (unit (req 0x30 0 0 [])) := rfl

/-- L3.3, step 4: the faulted unit accepts no request. -/
theorem test_faulted_is_stuck : step { unit (req 0x30 0 0 []) with status := 0x351 } = .fault .stuckUntilReset := rfl

/-- exec where no request is presented (log entry 5). -/
theorem test_exec_without_request : exec .pkep32 State.reset = .refused .noRequestPresented := rfl

/-! ## One step for each operation (spec/95_test_vectors.md V1 to V9) -/

theorem test_unpk565_scaled : askR 0x00000041 0x12345678 0xFF [] = some 0xFFC6CF52 := by decide

theorem test_unpk565_raw : askR 0x00000001 0x8410 0x12C [] = some 0xFF102010 := by decide

theorem test_pk565_scaled : askR 0x00800042 0xC89664 0x0 [] = some 0x64B8 := by decide

theorem test_pk565_clamps : askR 0x00000002 0x144628 0x0 [] = some 0xFFF4 := by decide

theorem test_pkep32 : askR 0x00000003 0xF800 0x1F [] = some 0x1FF800 := by decide

theorem test_pkep32_range : askFault 0x00000003 0x10000 0x0 = some (5, 0x00000351) := by decide

theorem test_unpkep32 : askR 0x00010004 0x1FF800 0x0 [] = some 0x1F := by decide

theorem test_unpkep32_index : askFault 0x00020004 0x0 0x0 = some (4, 0x00000441) := by decide

theorem test_pkep16 : askR 0x00000005 0x12 0x34 [] = some 0x3412 := by decide

theorem test_pkep16_range : askFault 0x00000005 0x12C 0x12C = some (5, 0x00000551) := by decide

theorem test_unpkep16 : askR 0x00010006 0xFFFF3412 0x0 [] = some 0x34 := by decide

theorem test_pal1_three :
    askV 0x00000088 0x0 0xFFFF [] 5 = some (3, [0xFF000000, 0xFFFFFFFF, 0xFF808080, 0x0, 0x0]) := by decide

theorem test_pal1_four :
    askV 0x00000008 0x309 0x0 [] 5 = some (4, [0xFF4A6100, 0xFF000000, 0xFF314000, 0xFF182000, 0x0]) := by decide

/-- V2: an entry is that of NV_PALETTE for (e0, e1), whatever NV_PALETTE is. -/
theorem test_palnv :
    (answered (exec .palnv (unit (req 0x9 0x12345678 0x1FFFF [])))).map (fun r => r.v[1])
    = some (Config.nvPalette 0x5678 0xFFFF).entries[1] := rfl

theorem test_aramp_eight :
    askV 0x0000000A 0x1FF 0x100 [] 9 = some (8, [0xFF, 0x0, 0xDA, 0xB6, 0x91, 0x6D, 0x48, 0x24, 0x0]) := by decide

theorem test_aramp_six :
    askV 0x0000000A 0xA 0xC8 [] 9 = some (6, [0xA, 0xC8, 0x30, 0x56, 0x7C, 0xA2, 0x0, 0xFF, 0x0]) := by decide

theorem test_arampq : askV 0x0000000B 0xFF 0x0 [] 3 = some (8, [0xFF000000, 0x0, 0xDA000000]) := by decide

theorem test_d1fl : askR 0x00030010 0x0 0x0 [] = some 0x1 := by decide

theorem test_d1fl_index : askFault 0x00040010 0x0 0x0 = some (4, 0x00001041) := by decide

theorem test_d1tl : askR 0x00010011 0x0 0x0 [] = some 0x3 := by decide

theorem test_d1tl_index : askFault 0x00040011 0x0 0x0 = some (4, 0x00001141) := by decide

theorem test_d5fl : askR 0x00070012 0x0 0x0 [] = some 0x1 := by decide

theorem test_d5fl_index : askFault 0x00080012 0x0 0x0 = some (4, 0x00001241) := by decide

theorem test_d5tl : askR 0x00010013 0x0 0x0 [] = some 0x7 := by decide

theorem test_d5tl_index : askFault 0x00080013 0x0 0x0 = some (4, 0x00001341) := by decide

theorem test_inv6 : askR 0x00020014 0x0 0x0 [] = some 0x5 := by decide

theorem test_inv6_index : askFault 0x00080014 0x0 0x0 = some (4, 0x00001441) := by decide

theorem test_inv8 : askR 0x00020015 0x0 0x0 [] = some 0x7 := by decide

theorem test_inv8_index : askFault 0x00080015 0x0 0x0 = some (4, 0x00001541) := by decide

theorem test_geta3_scaled :
    askR 0x00000E58 0x0 0x0 [0x00, 0x00, 0x00, 0x00, 0x00, 0x00, 0x00, 0x07] = some 0x77 := by decide

theorem test_geta3_raw : askR 0x00000118 0x0 0x0 [0xF0] = some 0xF := by decide

theorem test_seta3 :
    askBo 0x00000119 0x5 [0x0C, 0x00, 0x00, 0x00, 0x00, 0x00, 0x00, 0x00, 0xAA] = some (blk [0x5C, 0x00, 0x00,
      0x00, 0x00, 0x00, 0x00, 0x00, 0xAA]) := by decide

theorem test_seta3_scaled :
    askBo 0x00000F59 0xFF [0x5C] = some (blk [0x5C, 0x00, 0x00, 0x00, 0x00, 0x00, 0x00, 0xF0]) := by decide

theorem test_gcep :
    askR 0x00002020 0x0 0x0 [0x00, 0x00, 0x00, 0x00, 0x00, 0x00, 0x00, 0x00, 0x00, 0xF8, 0x1F, 0x00] = some
      0x1FF800 := by decide

theorem test_gcep_format : askFault 0x00004020 0x0 0x0 = some (3, 0x00002031) := by decide

theorem test_scep :
    askBo 0x00000021 0xFFFF [0x00, 0x00, 0x00, 0x00, 0x00, 0x00, 0x00, 0x00, 0x11, 0x22, 0x33, 0x44, 0x55, 0x66,
      0x77, 0x88] = some (blk [0xFF, 0xFF, 0x00, 0x00, 0x00, 0x00, 0x00, 0x00, 0x11, 0x22, 0x33, 0x44, 0x55, 0x66,
      0x77, 0x88]) := by decide

theorem test_scep_dxt5 :
    askBo 0x00003021 0x1FF800 [] = some (blk [0x00, 0x00, 0x00, 0x00, 0x00, 0x00, 0x00, 0x00, 0x00, 0xF8, 0x1F,
      0x00]) := by decide

theorem test_gcsel : askR 0x00000122 0x0 0x0 [0x00, 0x00, 0x00, 0x00, 0x0C] = some 0x3 := by decide

theorem test_scsel :
    askBo 0x00000F23 0x3 [0xFF, 0xFF, 0x00, 0x00, 0x24] = some (blk [0xFF, 0xFF, 0x00, 0x00, 0x24, 0x00, 0x00,
      0xC0]) := by decide

theorem test_scsel_format_first : askFault 0x00004023 0x9 0x0 = some (3, 0x00002331) := by decide

theorem test_gaep : askR 0x00003024 0x0 0x0 [0xFF, 0x00] = some 0xFF := by decide

theorem test_saep : askBo 0x00004025 0xFF [] = some (blk [0xFF, 0x00]) := by decide

theorem test_gasel : askR 0x00003526 0x0 0x0 [0x00, 0x00, 0x00, 0x80, 0x01] = some 0x3 := by decide

theorem test_sasel : askBo 0x00003527 0x1 [0xFF, 0x00, 0xC0] = some (blk [0xFF, 0x00, 0xC0, 0x80]) := by decide

theorem test_sasel_range : askFault 0x00003027 0x8 0x0 = some (5, 0x00002751) := by decide

theorem test_dect_dxt3 :
    askR 0x00002128 0x0 0x0 [0x5C, 0x00, 0x00, 0x00, 0x00, 0x00, 0x00, 0xF0, 0xAA, 0xBB, 0xCC, 0xDD, 0xEE, 0xFF,
      0x11, 0x22] = some 0x55000000 := by decide

theorem test_dect_dxt5 :
    askR 0x00003128 0x0 0x0 [0x0A, 0xC8, 0xBE, 0xEF, 0xFB, 0xBE, 0xEF, 0xFB, 0x00, 0xF8, 0x1F, 0x00] = some
      0xFF0000FF := by decide

theorem test_decb :
    askV 0x00000029 0x0 0x0 [0xFF, 0xFF, 0x00, 0x00, 0x24, 0x00, 0x00, 0xC0] 16 = some (0, [0xFFFFFFFF,
      0xFF000000, 0xFFAAAAAA, 0xFFFFFFFF, 0xFFFFFFFF, 0xFFFFFFFF, 0xFFFFFFFF, 0xFFFFFFFF, 0xFFFFFFFF, 0xFFFFFFFF,
      0xFFFFFFFF, 0xFFFFFFFF, 0xFFFFFFFF, 0xFFFFFFFF, 0xFFFFFFFF, 0xFF555555]) := by decide

theorem test_decb_has_no_r :
    askR 0x00003029 0x0 0x0 [0xFF, 0x00, 0xDB, 0xB6, 0x6D, 0xDB, 0xB6, 0x6D, 0xFF, 0xFF] = some 0x0 := by decide

theorem test_fbpp : askR 0x00002030 0x0 0x0 [] = some 0x8 := by decide

theorem test_fbpp_unknown : askFault 0x00007030 0x0 0x0 = some (3, 0x00003031) := by decide

theorem test_falpha : askR 0x00001031 0x0 0x0 [] = some 0x1 := by decide

theorem test_fblk : askR 0x00004032 0x0 0x0 [] = some 0x8 := by decide

/-! ## The assembler notation (spec/30_encoding.md R69, R70) -/

theorem test_assemble :
    assembleLine "SASEL fmt=DXT5 x=2, y=0 ; a=7, blk=FF 00" = some (req 0x3227 7 0 [0xFF, 0x00]) := by decide

theorem test_assemble_swapep : assembleLine "SWAPEP ; a=0x001FF800" = some (req 0x3 0x1F 0xF800 []) := by decide

/-- The grammar has each suffix at most once. -/
theorem test_assemble_suffix_once :
    assembleLine "UNPK565.S.S ; a=1" = none ∧ assembleLine "UNPK565.S ; a=1" = some (req 0x41 1 0 []) := by decide

/-- Log entry 9: a line does not set what the expansion sets. -/
theorem test_assemble_pseudo_sets_its_own_fields :
    assembleLine "PK565N.S ; a=1" = none ∧ assembleLine "PK565N ; a=1" = some (req 0x800042 1 0 []) := by decide

/-- Log entry 9: an endpoint word of more than 32 bits is refused. -/
theorem test_assemble_swapep_word :
    assembleLine "SWAPEP ; a=0x100000000" = none ∧
      assembleLine "SWAPEP ; a=0xFFFFFFFF" = some (req 0x3 0xFFFF 0xFFFF []) := by decide

/-! ## What becomes of a request (spec/70_reset_and_hazards.md R260, R268) -/

/-- V8, FBPP of DXT1. -/
theorem test_request_is_answered :
    (serve 1 (unit (req 0x30 0 0 []))).map Prod.snd = some [.answered (req 0x30 0 0 []) (.scalar 4)] := by decide

/-- R260: a request in progress has no response. -/
theorem test_reset_discards_a_request :
    (serve 1 { unit (req 0x30 0 0 []) with hostMoves := [.reset (some (req 0x30 0 0 []))] }).map Prod.snd
    = some [.discarded (req 0x30 0 0 [])] := by decide

/-- L3.3, steps 4 and 5. -/
theorem test_faulted_request_is_not_accepted :
    (serve 1 { unit (req 0x30 0 0 []) with
      status := 0x351, hostMoves := [.reset (some (req 0x30 0 0 []))] }).map Prod.snd
    = some [.notAccepted (req 0x30 0 0 [])] := by decide

/-! ## Witnesses: the hypotheses of each obligation met together, each clause at a boundary of its range -/

/-- A request that is presented to a unit that is not faulted, with any operands; the hypothesis of the result
statements. Each witness below that needs no more names the operands of the clauses. -/
theorem witness_Ready : Ready (unit (req 0x3 0xFFFF 0xFFFF [])) (req 0x3 0xFFFF 0xFFFF []) [] := ready_unit _

/-- A unit that has faulted (L3.3, step 3), with another request presented. -/
def stuckUnit (q : Request) : State :=
  { unit q with status := 0x351, response := some (Response.faulted .valueRange) }

theorem witness_DecodeAfterEncode :
    (Instr.dect (.unknown 5) 3 3 true).wf = true ∧ (Instr.fblk (.unknown 15)).wf = true ∧
      (Instr.pk565 true 255).wf = true := by decide

theorem witness_EncodeAfterDecode :
    decode 0x0000F032 = .ok (.fblk (.unknown 15)) ∧ decode 0x00FF0042 = .ok (.pk565 true 255) := by decide

theorem witness_EveryWordSelectsOneRowOrOneFault :
    Ready (unit (req 0x00004033 9 9 [])) (req 0x00004033 9 9 []) [] ∧
      decode (req 0x00004033 9 9 []).cmd = .error .illegalOpcode ∧
      Ready (unit (req 0x00FF0050 9 9 [])) (req 0x00FF0050 9 9 []) [] ∧
      decode (req 0x00FF0050 9 9 []).cmd = .error .reservedField :=
  ⟨ready_unit _, by decide, ready_unit _, by decide⟩

theorem witness_UnassignedOpcodesTrap :
    Ready (unit (req 0x00 0 0 [])) (req 0x00 0 0 []) [] ∧ decode (req 0x00 0 0 []).cmd = .error .illegalOpcode ∧
      Ready (unit (req 0x3F 0 0 [])) (req 0x3F 0 0 []) [] ∧ decode (req 0x3F 0 0 []).cmd = .error .illegalOpcode :=
  ⟨ready_unit _, by decide, ready_unit _, by decide⟩

theorem witness_UnusedFieldsMustBeZero :
    Ready (unit (req 0x81 0 0 [])) (req 0x81 0 0 []) [] ∧ decode (req 0x81 0 0 []).cmd = .error .reservedField ∧
      Ready (unit (req 0x80000003 0 0 [])) (req 0x80000003 0 0 []) [] ∧
      decode (req 0x80000003 0 0 []).cmd = .error .reservedField :=
  ⟨ready_unit _, by decide, ready_unit _, by decide⟩

theorem witness_StepRunsTheDecodedInstruction :
    Presents (unit (req 0x3527 7 0 [])) (req 0x3527 7 0 []) [] ∧
      decode (req 0x3527 7 0 []).cmd = .ok (.sasel .dxt5 1 1) :=
  ⟨rfl, by decide⟩

theorem witness_ResetAndIdleSteps :
    { stuckUnit (req 0x30 0 0 []) with hostMoves := [.reset (some (req 0x30 0 0 []))] }.hostMoves =
        .reset (some (req 0x30 0 0 [])) :: [] ∧
      { stuckUnit (req 0x30 0 0 []) with hostMoves := [.reset none, .request (req 0x30 0 0 [])] }.hostMoves =
        .reset none :: .request (req 0x30 0 0 []) :: [] ∧
      State.reset.hostMoves = [] :=
  ⟨rfl, rfl, rfl⟩

theorem witness_FaultedUnitAcceptsNoRequest :
    Presents (stuckUnit (req 0x30 0 0 [])) (req 0x30 0 0 []) [] ∧
      (stuckUnit (req 0x30 0 0 [])).status.getLsbD 0 = true :=
  ⟨rfl, by decide⟩

/-- One request for each check of R224 at the edge of its range, and one that fails none. -/
theorem witness_FirstFailingCheckGivesTheFault :
    (∀ q, Ready (unit q) q []) ∧
      requestFault (req 0x0100003F 0 0 []) = some .illegalOpcode ∧
      requestFault (req 0x00020044 0 0 []) = some .reservedField ∧
      requestFault (req 0x00004023 9 0 []) = some .badFormat ∧
      requestFault (req 0x00040010 0 0 []) = some .badIndex ∧
      requestFault (req 0x00000003 0x10000 0 []) = some .valueRange ∧
      requestFault (req 0x00000003 0xFFFF 0xFFFF []) = none :=
  ⟨ready_unit, by decide, by decide, by decide, by decide, by decide, by decide⟩

/-- The conditions of R222 on both sides of their edges. -/
theorem witness_OperationsFaultExactlyOnTheirConditions :
    (∀ q, Ready (unit q) q []) ∧
      operandFault .pkep32 (req 0x3 0xFFFF 0x10000 []) = some .valueRange ∧
      operandFault .pkep32 (req 0x3 0xFFFF 0xFFFF []) = none ∧
      operandFault .pkep16 (req 0x5 256 0 []) = some .valueRange ∧ operandFault .pkep16 (req 0x5 255 255 []) = none ∧
      operandFault (.unpkep32 2) (req 0x20004 0 0 []) = some .badIndex ∧
      operandFault (.unpkep16 1) (req 0x10006 0 0 []) = none ∧
      operandFault (.d1fl 4) (req 0x40010 0 0 []) = some .badIndex ∧
      operandFault (.d1tl 3) (req 0x30011 0 0 []) = none ∧
      operandFault (.inv8 8) (req 0x80015 0 0 []) = some .badIndex ∧
      operandFault (.d5fl 7) (req 0x70012 0 0 []) = none ∧
      operandFault (.seta3 false 0 0) (req 0x19 16 0 []) = some .valueRange ∧
      operandFault (.seta3 true 0 0) (req 0x59 255 0 []) = none ∧
      operandFault (.scsel .dxt5a 0 0) (req 0x4023 4 0 []) = some .badFormat ∧
      operandFault (.scsel .dxt5 0 0) (req 0x3023 4 0 []) = some .valueRange ∧
      operandFault (.sasel .dxt3 0 0) (req 0x2027 8 0 []) = some .badFormat ∧
      operandFault (.sasel .dxt5a 0 0) (req 0x4027 8 0 []) = some .valueRange ∧
      operandFault (.dect (.unknown 5) 0 0 false) (req 0x5028 0 0 []) = some .badFormat ∧
      operandFault (.dect .dxt5a 0 0 false) (req 0x4028 0 0 []) = none :=
  ⟨ready_unit, by decide⟩

theorem witness_NoBlockContentsFault :
    Ready (unit (req 0x4028 0 0 [0xFF])) (req 0x4028 0 0 [0xFF]) [] ∧
      Ready (unit (req 0x4028 0 0 [])) { req 0x4028 0 0 [0xFF] with blk := blk [] } [] :=
  ⟨ready_unit _, ready_unit _⟩

theorem witness_ResponseDependsOnTheRequestAlone :
    let q := req 0x4028 0 0 [0xFF]
    let s' := { unit q with response := some (Response.scalar 7) }
    (unit q).rom = s'.rom ∧ Ready (unit q) q [] ∧ Ready s' q [] :=
  ⟨rfl, ready_unit _, rfl, by simp [unit, State.reset]⟩

/-- Requests that differ in every input that the operation's rule does not read. -/
theorem witness_InputsNotNamedHaveNoEffect :
    (∀ q q', (unit q).rom = (unit q').rom ∧ Ready (unit q) q [] ∧ Ready (unit q') q' []) ∧
      AgreeFor (.unpk565 true) (req 0x41 0x12345678 255 [1]) (req 0x41 0x5678 255 [2]) ∧
      AgreeFor (.gcep .dxt1) (req 0x20 1 2 [1, 2, 3, 4, 5, 6]) (req 0x20 3 4 [1, 2, 3, 4, 7, 8]) ∧
      AgreeFor (.gaep .dxt5) (req 0x3024 1 2 [1, 2, 3]) (req 0x3024 3 4 [1, 2, 4]) ∧
      AgreeFor (.gcsel .dxt1 3 3) (req 0xF22 1 2 [1, 2, 3, 4, 5, 6, 7, 0xC0]) (req 0xF22 3 4 [5, 6, 7, 8, 9, 1, 2, 0xFF]) ∧
      AgreeFor (.dect .dxt5a 0 0 false) (req 0x4028 1 2 [1, 2, 8]) (req 0x4028 3 4 [1, 2, 0xF0]) ∧
      AgreeFor (.fbpp .dxt3) (req 0x2030 1 2 [3]) (req 0x2030 4 5 [6]) :=
  ⟨fun _ _ => ⟨rfl, ready_unit _, ready_unit _⟩, by unfold AgreeFor; decide, by unfold AgreeFor; decide,
    by unfold AgreeFor; decide, by unfold AgreeFor; decide, by unfold AgreeFor; decide, by unfold AgreeFor; decide⟩

/-- One state for each clause: an answer, reset, fault entry. -/
theorem witness_StatusChangesOnlyByFaultEntryAndReset :
    (∃ t, step (unit (req 0x30 0 0 [])) = .next t) ∧
      (∃ t, step { stuckUnit (req 0x30 0 0 []) with hostMoves := [.reset none] } = .next t) ∧
      ∃ t, step (unit (req 0x00 0 0 [])) = .next t :=
  ⟨⟨_, rfl⟩, ⟨_, rfl⟩, ⟨_, rfl⟩⟩

theorem unitInv_unit (q : Request) : UnitInv (unit q) :=
  ⟨rfl, by simp [unit, State.reset], by simp [unit, State.reset], fun _ => rfl, by simp [unit, State.reset],
    fun _ => rfl, fun _ h => by cases h⟩

/-- An answer and fault entry from states that meet the invariant, and reset from a faulted one. -/
theorem witness_StepKeepsTheInvariant :
    (UnitInv (unit (req 0x30 0 0 [])) ∧ ∃ t, step (unit (req 0x30 0 0 [])) = .next t) ∧
      (UnitInv (unit (req 0x3F 0 0 [])) ∧ ∃ t, step (unit (req 0x3F 0 0 [])) = .next t) ∧
      UnitInv { stuckUnit (req 0x30 0 0 []) with hostMoves := [.reset none] } ∧
      ∃ t, step { stuckUnit (req 0x30 0 0 []) with hostMoves := [.reset none] } = .next t := by
  refine ⟨⟨unitInv_unit _, _, rfl⟩, ⟨unitInv_unit _, _, rfl⟩,
    ⟨rfl, by decide, by decide, ?_, by decide, ?_, ?_⟩, _, rfl⟩
  · intro h
    exact absurd h (by decide)
  · intro h
    cases h
  · intro r h
    cases h
    exact ⟨by decide, by decide, by decide, fun _ => ⟨rfl, rfl, rfl, rfl⟩⟩

/-- The second unit moves twice, the first one not at all, and the second one then has a request presented. -/
theorem witness_UnitsAreIndependent :
    let q := req 0x4032 0 0 []
    let u := { State.reset with hostMoves := [.reset none, .request (req 0x30 0 0 []), .request q] }
    [State.reset, u][1]? = some u ∧
      ∃ v, (runUnits [1, 1] [State.reset, u])[1]? = some v ∧ Ready v q [] ∧ (unit q).rom = u.rom ∧
        Ready (unit q) q [] :=
  ⟨rfl, _, rfl, ⟨rfl, by decide⟩, rfl, ready_unit _⟩

/-- A run with each of the three ends of a request, which takes all moves, and one that reset does not disturb. -/
theorem witness_RunsServeRequestsInOrder :
    (serve 2 { State.reset with
        hostMoves := [.request (req 0x30 0 0 []), .reset (some (req 0x3F 0 0 []))] }).map (fun p => (p.1.hostMoves, p.2)) =
      some ([], [.answered (req 0x30 0 0 []) (.scalar 4), .discarded (req 0x3F 0 0 [])]) ∧
    (serve 1 { stuckUnit (req 0x30 0 0 []) with hostMoves := [.reset (some (req 0x30 0 0 []))] }).map
        (fun p => (p.1.hostMoves, p.2)) = some ([], [.notAccepted (req 0x30 0 0 [])]) ∧
    (serve 1 (unit (req 0x30 0 0 []))).map (fun p => p.1.hostMoves) = some [] := by decide

theorem witness_GoodRequestsFinish :
    let moves : List HostMove := [.request (req 0x3 0xFFFF 0xFFFF []), .request (req 0x4032 0 0 [])]
    { State.reset with hostMoves := moves }.hostMoves = moves ∧
      { State.reset with hostMoves := moves }.status.getLsbD 0 = false ∧
      ∀ m ∈ moves, ∃ q, m = .request q ∧ requestFault q = none := by
  refine ⟨rfl, by decide, ?_⟩
  intro m hm
  simp only [List.mem_cons, List.not_mem_nil, or_false] at hm
  rcases hm with rfl | rfl
  · exact ⟨_, rfl, by decide⟩
  · exact ⟨_, rfl, by decide⟩

/-! ### Packing -/

theorem witness_Unpk565Result : Ready (unit (req 0x41 0xFFFF 256 [])) (req 0x41 0xFFFF 256 []) [] := ready_unit _

theorem witness_Pk565Result : Ready (unit (req 0xFF0042 0xFFFFFF 0 [])) (req 0xFF0042 0xFFFFFF 0 []) [] := ready_unit _

theorem witness_Pkep32Result :
    (Ready (unit (req 0x3 0x10000 0 [])) (req 0x3 0x10000 0 []) [] ∧ 65535 < (req 0x3 0x10000 0 []).a.toNat) ∧
      Ready (unit (req 0x3 0xFFFF 0xFFFF [])) (req 0x3 0xFFFF 0xFFFF []) [] ∧
      ¬(65535 < (req 0x3 0xFFFF 0xFFFF []).a.toNat ∨ 65535 < (req 0x3 0xFFFF 0xFFFF []).b.toNat) :=
  ⟨⟨ready_unit _, by decide⟩, ready_unit _, by decide⟩

/-- Index 2 and index 1. -/
theorem witness_Unpkep32Result :
    (Ready (unit (req 0x20004 0 0 [])) (req 0x20004 0 0 []) [] ∧ 1 < (2 : BitVec 8).toNat) ∧
      Ready (unit (req 0x10004 0 0 [])) (req 0x10004 0 0 []) [] ∧ ¬1 < (1 : BitVec 8).toNat :=
  ⟨⟨ready_unit _, by decide⟩, ready_unit _, by decide⟩

theorem witness_Pkep16Result :
    (Ready (unit (req 0x5 0 256 [])) (req 0x5 0 256 []) [] ∧ 255 < (req 0x5 0 256 []).b.toNat) ∧
      Ready (unit (req 0x5 255 255 [])) (req 0x5 255 255 []) [] ∧
      ¬(255 < (req 0x5 255 255 []).a.toNat ∨ 255 < (req 0x5 255 255 []).b.toNat) :=
  ⟨⟨ready_unit _, by decide⟩, ready_unit _, by decide⟩

/-- Index 2 and index 1. -/
theorem witness_Unpkep16Result :
    (Ready (unit (req 0x20006 0 0 [])) (req 0x20006 0 0 []) [] ∧ 1 < (2 : BitVec 8).toNat) ∧
      Ready (unit (req 0x10006 0 0 [])) (req 0x10006 0 0 []) [] ∧ ¬1 < (1 : BitVec 8).toNat :=
  ⟨⟨ready_unit _, by decide⟩, ready_unit _, by decide⟩

/-- The endpoint 0x0001 of V1's round trip, there and back; the second request presents the first one's R. -/
theorem witness_PackUnpackRoundTrip :
    Ready (unit (req 0x41 1 255 [])) (req 0x41 1 255 []) [] ∧
      answered (exec (.unpk565 true) (unit (req 0x41 1 255 []))) = some (Response.scalar 0xFF080000) ∧
      Ready (unit (req 0x800042 0xFF080000 0 [])) (req 0x800042 0xFF080000 0 []) [] ∧
      (req 0x800042 0xFF080000 0 []).a = (Response.scalar 0xFF080000).r ∧
      answered (exec (.pk565 true 128) (unit (req 0x800042 0xFF080000 0 []))) = some (Response.scalar 1) ∧
      (req 0x41 1 255 []).a = (Response.scalar 1).r :=
  ⟨ready_unit _, by decide, ready_unit _, rfl, by decide, rfl⟩

/-! ### Ramps -/

/-- Both sides of e1 < e0: near-equal endpoints and equal ones. -/
theorem witness_Pal1Result :
    (Ready (unit (req 0x8 1 0 [])) (req 0x8 1 0 []) [] ∧
        (req 0x8 1 0 []).b.toNat % 65536 < (req 0x8 1 0 []).a.toNat % 65536) ∧
      Ready (unit (req 0x8 1 1 [])) (req 0x8 1 1 []) [] ∧
      ¬(req 0x8 1 1 []).b.toNat % 65536 < (req 0x8 1 1 []).a.toNat % 65536 :=
  ⟨⟨ready_unit _, by decide⟩, ready_unit _, by decide⟩

theorem witness_PaletteInvariants :
    (∀ q, Ready (unit q) q []) ∧ (req 0x41 0x309 255 []).a = (req 0x8 0x309 0 []).a ∧
      (req 0x41 0 255 []).a = (req 0x8 0x309 0 []).b ∧ (req 0x41 0x309 255 []).b = 255 ∧
      (req 0x41 0 255 []).b = 255 :=
  ⟨ready_unit, rfl, rfl, rfl, rfl⟩

theorem witness_PalnvResult : Ready (unit (req 0x9 0xFFFF 0 [])) (req 0x9 0xFFFF 0 []) [] := ready_unit _

/-- Both sides of h < l. -/
theorem witness_ArampResult :
    (Ready (unit (req 0xA 255 254 [])) (req 0xA 255 254 []) [] ∧
        (req 0xA 255 254 []).b.toNat % 256 < (req 0xA 255 254 []).a.toNat % 256) ∧
      Ready (unit (req 0xA 255 255 [])) (req 0xA 255 255 []) [] ∧
      ¬(req 0xA 255 255 []).b.toNat % 256 < (req 0xA 255 255 []).a.toNat % 256 :=
  ⟨⟨ready_unit _, by decide⟩, ready_unit _, by decide⟩

theorem witness_ArampqResult : Ready (unit (req 0xB 255 255 [])) (req 0xB 255 255 []) [] := ready_unit _

theorem witness_RampInvariants :
    Ready (unit (req 0xA 1 0 [])) (req 0xA 1 0 []) [] ∧
      (req 0xA 1 0 []).b.toNat % 256 < (req 0xA 1 0 []).a.toNat % 256 :=
  ⟨ready_unit _, by decide⟩

/-! ### Remap tables -/

/-- The last index in range and the first out of range, of both table sizes. -/
theorem witness_RemapReadsItsTable :
    (∀ q, Ready (unit q) q []) ∧ (3 : BitVec 8).toNat < 4 ∧ 4 ≤ (4 : BitVec 8).toNat ∧ (7 : BitVec 8).toNat < 8 ∧
      8 ≤ (8 : BitVec 8).toNat :=
  ⟨ready_unit, by decide⟩

theorem witness_RemapAnswers :
    Ready (unit (req 0x70015 0 0 [])) (req 0x70015 0 0 []) [] ∧ (unit (req 0x70015 0 0 [])).rom = romConstants ∧
      (7 : BitVec 8).toNat < [1, 0, 7, 6, 5, 4, 3, 2].length ∧ (3 : BitVec 8).toNat < [0, 2, 3, 1].length ∧
      [1, 0, 7, 6, 5, 4, 3, 2].length ≤ (8 : BitVec 8).toNat ∧ [0, 2, 3, 1].length ≤ (4 : BitVec 8).toNat :=
  ⟨ready_unit _, rfl, by decide⟩

theorem witness_TableLaws :
    Ready (unit (req 0x30010 0 0 [])) (req 0x30010 0 0 []) [] ∧ (unit (req 0x30010 0 0 [])).rom = romConstants ∧
      (3 : BitVec 8).toNat < 4 ∧ (7 : BitVec 8).toNat < 8 :=
  ⟨ready_unit _, rfl, by decide⟩

theorem witness_InvertSelectsTheSameEntry :
    Ready (unit (req 0x70014 0 0 [])) (req 0x70014 0 0 []) [] ∧ (unit (req 0x70014 0 0 [])).rom = romConstants ∧
      (7 : BitVec 8).toNat < 8 :=
  ⟨ready_unit _, rfl, by decide⟩

/-! ### DXT3 alpha -/

theorem witness_Geta3Result : Ready (unit (req 0xF58 0 0 [0xFF])) (req 0xF58 0 0 [0xFF]) [] := ready_unit _

/-- Both sides of both ranges. -/
theorem witness_Seta3Result :
    (∀ q, Ready (unit q) q []) ∧ 15 < (req 0x19 16 0 []).a.toNat ∧ ¬15 < (req 0x19 15 0 []).a.toNat ∧
      255 < (req 0x59 256 0 []).a.toNat ∧ ¬255 < (req 0x59 255 0 []).a.toNat :=
  ⟨ready_unit, by decide⟩

theorem witness_NibbleIsolation :
    let q := req 0x59 255 0 [0x50]
    let written := Response.block (blk [0x5F])
    Ready (unit q) q [] ∧ q.a.toNat ≤ (if true then 255 else 15) ∧
      answered (exec (.seta3 true 0 0) (unit q)) = some written ∧
      Ready (unit (req 0x18 0 0 [0x5F])) (req 0x18 0 0 [0x5F]) [] ∧ (req 0x18 0 0 [0x5F]).blk = written.bo ∧
      ¬((1 : BitVec 2) = 0 ∧ (0 : BitVec 2) = 0) :=
  ⟨ready_unit _, by decide, by decide, ready_unit _, rfl, by decide⟩

/-! ### Block fields -/

/-- Every operation on the color block: a flavor at each base and the one known flavor without a color block. -/
theorem witness_GcepResult :
    (∀ q, Ready (unit q) q []) ∧ baseOf .dxt1 = some 0 ∧ baseOf .dxt5 = some 8 ∧ baseOf .dxt5a = none :=
  ⟨ready_unit, rfl, rfl, rfl⟩

theorem witness_ScepResult :
    (∀ q, Ready (unit q) q []) ∧ baseOf .dxt1a = some 0 ∧ baseOf .dxt3 = some 8 ∧ baseOf (.unknown 5) = none :=
  ⟨ready_unit, rfl, rfl, rfl⟩

theorem witness_GcselResult :
    (∀ q, Ready (unit q) q []) ∧ baseOf .dxt1 = some 0 ∧ baseOf .dxt3 = some 8 ∧ baseOf (.unknown 15) = none :=
  ⟨ready_unit, rfl, rfl, rfl⟩

/-- Both sides of A <= 3. -/
theorem witness_ScselResult :
    (∀ q, Ready (unit q) q []) ∧ baseOf .dxt5 = some 8 ∧ 3 < (req 0x3F23 4 0 []).a.toNat ∧
      ¬3 < (req 0x3F23 3 0 []).a.toNat ∧ texelAt 3 3 = 15 ∧ baseOf .dxt5a = none :=
  ⟨ready_unit, rfl, by decide, by decide, by decide, rfl⟩

theorem witness_GaepResult : (∀ q, Ready (unit q) q []) ∧ HasRamp .dxt5 ∧ ¬HasRamp .dxt3 :=
  ⟨ready_unit, by simp [HasRamp], by simp [HasRamp]⟩

theorem witness_SaepResult : (∀ q, Ready (unit q) q []) ∧ HasRamp .dxt5a ∧ ¬HasRamp (.unknown 5) :=
  ⟨ready_unit, by simp [HasRamp], by simp [HasRamp]⟩

theorem witness_GaselResult : (∀ q, Ready (unit q) q []) ∧ HasRamp .dxt5a ∧ ¬HasRamp .dxt1a :=
  ⟨ready_unit, by simp [HasRamp], by simp [HasRamp]⟩

/-- Both sides of A <= 7. -/
theorem witness_SaselResult :
    (∀ q, Ready (unit q) q []) ∧ HasRamp .dxt5 ∧ 7 < (req 0x3F27 8 0 []).a.toNat ∧ ¬7 < (req 0x3F27 7 0 []).a.toNat ∧
      ¬HasRamp .dxt1 :=
  ⟨ready_unit, by simp [HasRamp], by decide, by decide, by simp [HasRamp]⟩

/-- V6: SCEP on DXT1 with bytes above the block. -/
theorem witness_EightByteFlavorsPassTheUpperBytes :
    let q := req 0x21 0xFFFF 0 [0, 0, 0, 0, 0, 0, 0, 0, 0x11, 0x22]
    let resp := Response.block (blk [0xFF, 0xFF, 0, 0, 0, 0, 0, 0, 0x11, 0x22])
    Ready (unit q) q [] ∧ blockBytes .dxt1 = 8 ∧ answered (exec (.scep .dxt1) (unit q)) = some resp ∧
      resp.fault = false :=
  ⟨ready_unit _, rfl, by decide, rfl⟩

/-! ### Texel decode and metadata -/

/-- The last known tag and the first unknown one. -/
theorem witness_DectResult :
    (∀ q, Ready (unit q) q []) ∧ known (flavorOfTag 4) = true ∧ known (flavorOfTag 5) = false :=
  ⟨ready_unit, rfl, rfl⟩

theorem witness_DecbIsSixteenDects :
    (∀ q, Ready (unit q) q []) ∧ known (flavorOfTag 4) = true ∧ known (flavorOfTag 5) = false :=
  ⟨ready_unit, rfl, rfl⟩

theorem witness_Dxt1aDecodesAsDxt1 : Ready (unit (req 0x1031 0 0 [])) (req 0x1031 0 0 []) [] := ready_unit _

/-- L3.4, step 8, and the edge e0 = e1. -/
theorem witness_Dxt3AndDxt5KeepTheColorMode :
    (∀ q, Ready (unit q) q []) ∧
      (∀ b ∈ [(0x2211FFEEDDCCBBAAF00000000000005C : Block), 0x0000000C020102010000000000000000],
        blockLE b 8 2 ≤ blockLE b 10 2 ∧ colorSelector b 8 (texelAt 1 0) = 3) := by
  refine ⟨ready_unit, ?_⟩
  simp only [colorSelector, blockLE_eq, List.forall_mem_cons, List.not_mem_nil, false_implies, implies_true, and_true]
  decide

/-- One pair of requests for each of the four fields; the second presents the first one's BO. -/
theorem witness_WrittenFieldReadsBack :
    (∀ q, Ready (unit q) q []) ∧
      (answered (exec (.scep .dxt5) (unit (req 0x3021 0xFFFFFFFF 0 []))) =
          some (.block (blk [0, 0, 0, 0, 0, 0, 0, 0, 0xFF, 0xFF, 0xFF, 0xFF])) ∧
        answered (exec (.scsel .dxt1 3 3) (unit (req 0xF23 3 0 []))) = some (.block (blk [0, 0, 0, 0, 0, 0, 0, 0xC0])) ∧
        answered (exec (.saep .dxt5a) (unit (req 0x4025 0x1FFFF 0 []))) = some (.block (blk [0xFF, 0xFF])) ∧
        answered (exec (.sasel .dxt5 3 3) (unit (req 0x3F27 7 0 []))) =
          some (.block (blk [0, 0, 0, 0, 0, 0, 0, 0xE0]))) ∧
      ∀ bytes, (Response.block (blk bytes)).fault = false ∧ (req 0x20 0 0 bytes).blk = (Response.block (blk bytes)).bo :=
  ⟨ready_unit, by decide, fun _ => ⟨rfl, rfl⟩⟩

theorem witness_FormatQueries :
    (∀ q, Ready (unit q) q []) ∧ known (flavorOfTag 4) = true ∧ known (flavorOfTag 5) = false :=
  ⟨ready_unit, rfl, rfl⟩

/-! ### The assembler notation -/

/-- Every field and operand at its greatest value, a text that assembles, and an instruction with an unknown flavor. -/
theorem witness_AssembledCommandWord :
    requestOf 0x3F
        { mnemonic := [], scaled := true, round := true, fmt := some 15, x := some 3, y := some 3, imm := some 255,
          a := some 0xFFFFFFFF, b := some 0xFFFFFFFF, blk := some [0xFF, 0, 1] } =
      some (req 0x00FFFFFF 0xFFFFFFFF 0xFFFFFFFF [0xFF, 0, 1]) ∧
    assembleLine "DEC1 x=3, y=3" = some (req 0xF28 0 0 []) ∧ (Instr.dect (.unknown 15) 3 3 true).wf = true := by decide

theorem witness_PseudoInstructionsMeanTheirExpansions :
    let texel : AsmLine :=
      { mnemonic := [], scaled := false, round := true, fmt := none, x := some 3, y := some 3, imm := none,
        a := none, b := none, blk := some [0xFF] }
    let line : AsmLine :=
      { mnemonic := [], scaled := false, round := false, fmt := none, x := none, y := none, imm := none,
        a := some 0xFFFFFFFF, b := none, blk := none }
    texel.fmt = none ∧ State.reset.status.getLsbD 0 = false ∧ line.fmt = none ∧ line.imm = none ∧ line.x = none ∧
      line.y = none ∧ line.round = false ∧ line.scaled = false ∧ line.b = none ∧ line.blk = none ∧ line.a.getD 0 < 4294967296 :=
  by decide

end Sys2Proof.Tests
end

/-! # Proofs of the family of the state (spec/10_state.md): what a step keeps and what a response depends on

## Responses of requests that fail no check -/

namespace Sys2Proof.Machine

open Sys2Proof.Safety

/-- A response without a fault and with a count that spec/10_state.md R30 admits. -/
def Response.Normal (resp : Response) : Prop :=
  resp.fault = false ∧ resp.fcode = 0 ∧ resp.cnt.toNat ∈ [0, 3, 4, 6, 8]

/-- An operation's result that is a normal response wherever it is a response. -/
def AnswersNormally (result : Except FaultCode Response) : Prop :=
  ∀ resp, result = .ok resp → resp.Normal

theorem answersNormally_ok {resp : Response} (h : resp.Normal) : AnswersNormally (.ok resp) :=
  fun _ e => Except.ok.inj e ▸ h

theorem answersNormally_error (code : FaultCode) : AnswersNormally (.error code) :=
  fun _ e => nomatch e

theorem answersNormally_scalar (r : Word) : AnswersNormally (.ok (.scalar r)) :=
  answersNormally_ok ⟨rfl, rfl, by simp [Response.scalar]⟩

theorem answersNormally_block (bo : Block) : AnswersNormally (.ok (.block bo)) :=
  answersNormally_ok ⟨rfl, rfl, by simp [Response.block]⟩

theorem answersNormally_vector {cnt : BitVec 4} (h : cnt.toNat ∈ [0, 3, 4, 6, 8]) (v : Vector Word 16) :
    AnswersNormally (.ok (.vector cnt v)) :=
  answersNormally_ok ⟨rfl, rfl, h⟩

theorem colorCount_admitted (e0 e1 : Half) : (colorCount e0 e1).toNat ∈ [0, 3, 4, 6, 8] := by
  unfold colorCount
  split <;> decide

theorem alphaCount_admitted (l h : Byte) : (alphaCount l h).toNat ∈ [0, 3, 4, 6, 8] := by
  unfold alphaCount
  split <;> decide

theorem nvCount_admitted (c : NvCount) : (nvCount c).toNat ∈ [0, 3, 4, 6, 8] := by
  cases c <;> decide

theorem answersNormally_checkMax {code : FaultCode} {v bound : Nat} {go : Except FaultCode Response}
    (h : AnswersNormally go) : AnswersNormally (checkMax code v bound go) := by
  unfold checkMax
  split
  · exact answersNormally_error code
  · exact h

theorem answersNormally_onColorBlock {f : Flavor} {go : Nat → Except FaultCode Response}
    (h : ∀ o, AnswersNormally (go o)) : AnswersNormally (onColorBlock f go) := by
  unfold onColorBlock
  split
  · exact h _
  · exact answersNormally_error _

theorem answersNormally_onAlphaBlock {f : Flavor} {go : Except FaultCode Response}
    (h : AnswersNormally go) : AnswersNormally (onAlphaBlock f go) := by
  by_cases hf : HasRamp f
  · rwa [onAlphaBlock_ramp hf]
  · rw [onAlphaBlock_other hf]
    exact answersNormally_error _

theorem answersNormally_remap {n w : Nat} (table : Vector (BitVec w) n) (idx : BitVec 8) :
    AnswersNormally (remap table idx) := by
  unfold remap
  split
  · exact answersNormally_scalar _
  · exact answersNormally_error _

theorem answersNormally_answerQuery (v : Except FaultCode Nat) : AnswersNormally (answerQuery v) := by
  cases v with
  | ok n => exact answersNormally_scalar _
  | error code => exact answersNormally_error code

/-- Every instruction takes the course of a request, and its operation answers normally or not at all. -/
theorem exec_answersNormally (i : Instr) (s : State) :
    ∃ op, exec i s = perform s op ∧ ∀ q, AnswersNormally (op q) := by
  cases i with
  | unpk565 | pk565 | geta3 => exact ⟨_, rfl, fun _ => answersNormally_scalar _⟩
  | unpkep32 | unpkep16 => exact ⟨_, rfl, fun _ => answersNormally_checkMax (answersNormally_scalar _)⟩
  | pkep32 | pkep16 =>
    exact ⟨_, rfl, fun _ => answersNormally_checkMax (answersNormally_checkMax (answersNormally_scalar _))⟩
  | pal1 => exact ⟨_, rfl, fun _ => answersNormally_vector (colorCount_admitted _ _) _⟩
  | palnv => exact ⟨_, rfl, fun _ => answersNormally_vector (nvCount_admitted _) _⟩
  | aramp | arampq => exact ⟨_, rfl, fun _ => answersNormally_vector (alphaCount_admitted _ _) _⟩
  | d1fl | d1tl | d5fl | d5tl | inv6 | inv8 => exact ⟨_, rfl, fun _ => answersNormally_remap _ _⟩
  | seta3 => exact ⟨_, rfl, fun _ => answersNormally_checkMax (answersNormally_block _)⟩
  | gcep | gcsel => exact ⟨_, rfl, fun _ => answersNormally_onColorBlock fun _ => answersNormally_scalar _⟩
  | scep => exact ⟨_, rfl, fun _ => answersNormally_onColorBlock fun _ => answersNormally_block _⟩
  | scsel =>
    exact ⟨_, rfl, fun _ => answersNormally_onColorBlock fun _ => answersNormally_checkMax (answersNormally_block _)⟩
  | gaep | gasel => exact ⟨_, rfl, fun _ => answersNormally_onAlphaBlock (answersNormally_scalar _)⟩
  | saep => exact ⟨_, rfl, fun _ => answersNormally_onAlphaBlock (answersNormally_block _)⟩
  | sasel =>
    exact ⟨_, rfl, fun _ => answersNormally_onAlphaBlock (answersNormally_checkMax (answersNormally_block _))⟩
  | dect f =>
    cases f with
    | unknown => exact ⟨_, rfl, fun _ => answersNormally_error _⟩
    | _ => exact ⟨_, rfl, fun _ => answersNormally_scalar _⟩
  | decb f =>
    cases f with
    | unknown => exact ⟨_, rfl, fun _ => answersNormally_error _⟩
    | _ => exact ⟨_, rfl, fun _ => answersNormally_vector (by decide) _⟩
  | fbpp | falpha | fblk => exact ⟨_, rfl, fun _ => answersNormally_answerQuery _⟩

/-- A step on a presented request takes the course of a request, with an operation that answers normally. -/
theorem step_answersNormally {s : State} {q : Request} {rest : List HostMove} (h : Presents s q rest) :
    ∃ op, step s = perform s op ∧ ∀ q, AnswersNormally (op q) := by
  unfold Presents at h
  cases hd : decode q.cmd with
  | ok i =>
    obtain ⟨op, hop, hn⟩ := exec_answersNormally i s
    exact ⟨op, by simp [step, h, hd, hop], hn⟩
  | error code =>
    exact ⟨fun _ => .error code, by simp [step, h, hd, raiseAtDecode], fun _ => answersNormally_error code⟩

/-! ## STATUS after fault entry (spec/10_state.md R25; spec/60_exceptions.md R225) -/

@[simp] theorem faultStatus_faulted (code : FaultCode) (op : BitVec 6) : (faultStatus code op).getLsbD 0 = true := by
  revert op
  cases code <;> decide

@[simp] theorem faultStatus_fcode (code : FaultCode) (op : BitVec 6) :
    (faultStatus code op).extractLsb' 4 4 = fcodeOf code := by
  revert op
  cases code <;> decide

@[simp] theorem faultStatus_reservedLow (code : FaultCode) (op : BitVec 6) :
    (faultStatus code op).extractLsb' 1 3 = 0 := by
  revert op
  cases code <;> decide

@[simp] theorem faultStatus_reservedHigh (code : FaultCode) (op : BitVec 6) :
    (faultStatus code op).extractLsb' 14 18 = 0 := by
  revert op
  cases code <;> decide

theorem fcodeOf_range (code : FaultCode) : 1 ≤ (fcodeOf code).toNat ∧ (fcodeOf code).toNat ≤ 5 := by
  cases code <;> decide

/-- The state that fault entry leaves is what Faults says of a step's outcome. -/
theorem faults_enterFault {s : State} {q : Request} {rest : List HostMove} (h : Presents s q rest)
    (code : FaultCode) : Faults (.next (s.enterFault q code)) s rest q code := by
  unfold Presents at h
  simp [Faults, State.enterFault, h, faultStatus_eq, Response.faulted, fcodeOf_eq, zeroVector]

/-- The response that a step gives to a request without fault entry is a normal one. -/
theorem normal_of_step_respond {s : State} {q : Request} {rest : List HostMove} {resp : Response}
    (hs : Ready s q rest) (h : step s = .next (s.respond resp)) : resp.Normal := by
  obtain ⟨op, hop, hn⟩ := step_answersNormally hs.1
  rw [hop, perform_ready op hs] at h
  cases ho : op q with
  | ok r =>
    simp only [ho, Host.Outcome.next.injEq] at h
    have hr : some r = some resp := congrArg State.response h
    exact Option.some.inj hr ▸ hn q r ho
  | error code =>
    simp only [ho, Host.Outcome.next.injEq] at h
    have hst : faultStatus code (cmdOp q.cmd) = s.status := congrArg State.status h
    have hf := hs.2
    rw [← hst, faultStatus_faulted] at hf
    cases hf

/-! ## The invariant, for each state that a step can leave -/

/-- Constant tables, STATUS 0 and no response: after reset, and in the reset state. -/
theorem unitInv_cleared {s : State} (hrom : s.rom = romConstants) (hst : s.status = 0) (hresp : s.response = none) :
    UnitInv s := by
  simp [UnitInv, hrom, hst, hresp]

theorem unitInv_takeReset {s : State} (h : UnitInv s) : UnitInv s.takeReset :=
  unitInv_cleared h.1 rfl rfl

theorem unitInv_respond {s : State} {resp : Response} (h : UnitInv s) (hf : s.status.getLsbD 0 = false)
    (hn : resp.Normal) : UnitInv (s.respond resp) := by
  obtain ⟨hrom, hlow, hhigh, hzero, hcode, -, -⟩ := h
  obtain ⟨hfault, hfcode, hcnt⟩ := hn
  refine ⟨hrom, hlow, hhigh, hzero, hcode, by simp, fun r hr => ?_⟩
  obtain rfl : resp = r := Option.some.inj hr
  exact ⟨by simp [hzero hf, hfault], by simp [hzero hf, hfcode], hcnt, by simp [hfault]⟩

theorem unitInv_enterFault {s : State} (h : UnitInv s) (q : Request) (code : FaultCode) :
    UnitInv (s.enterFault q code) := by
  refine ⟨h.1, by simp, by simp, by simp, fun _ => ?_, by simp, fun r hr => ?_⟩
  · simpa using fcodeOf_range code
  · obtain rfl : Response.faulted code = r := Option.some.inj hr
    exact ⟨by simp [Response.faulted], by simp [Response.faulted], by simp [Response.faulted],
      fun _ => ⟨rfl, rfl, rfl, rfl⟩⟩

/-- Settles O17: the invariant is kept by each of the four things that a step can do. -/
theorem stepKeepsTheInvariant : Obligations.StepKeepsTheInvariant := by
  intro s t hinv hstep
  rcases step_cases hstep with ⟨_, rfl⟩ | ⟨_, _, _, rfl⟩ | ⟨q, rest, resp, hs, rfl⟩ | ⟨q, _, code, _, rfl⟩
  · exact hinv
  · exact unitInv_takeReset hinv
  · exact unitInv_respond hinv hs.2 (normal_of_step_respond hs hstep)
  · exact unitInv_enterFault hinv q code

/-- Settles O16. -/
theorem invariantAtReset : Obligations.InvariantAtReset :=
  unitInv_cleared State.reset_rom State.reset_status State.reset_response

/-- Settles O15: STATUS is kept by idleness and by a response, cleared by reset, and written by fault entry. -/
theorem statusChangesOnlyByFaultEntryAndReset : Obligations.StatusChangesOnlyByFaultEntryAndReset := by
  intro s t hstep
  rcases step_cases hstep with
    ⟨_, rfl⟩ | ⟨inProgress, rest, hm, rfl⟩ | ⟨q, rest, resp, _, rfl⟩ | ⟨q, rest, code, hs, rfl⟩
  · exact ⟨rfl, .inl rfl⟩
  · exact ⟨rfl, .inr (.inl ⟨rfl, inProgress, rest, hm⟩)⟩
  · exact ⟨rfl, .inl rfl⟩
  · exact ⟨rfl, .inr (.inr ⟨q, rest, code, hs, hstep ▸ faults_enterFault hs.1 code⟩)⟩

/-- Settles O18: the reset tables are the constants, whose entries are read off. -/
theorem resetValues : Obligations.ResetValues := by
  refine ⟨rfl, rfl, rfl, ?_⟩
  rw [State.reset_rom]
  decide

end Sys2Proof.Machine

/-! ## The decoded instruction (spec/30_encoding.md R63, R64) -/

namespace Sys2Proof

theorem decodeRow_wf {w mask pattern : Word} {i j : Instr} (hi : i.wf = true)
    (h : decodeRow w mask pattern i = .ok j) : j.wf = true := by
  unfold decodeRow at h
  split at h
  · exact Except.ok.inj h ▸ hi
  · cases h

/-- Every instruction that the decoder answers is well-formed: its flavor, if it has one, is that of a tag. -/
theorem decode_wf {w : Word} {i : Instr} (h : decode w = .ok i) : i.wf = true := by
  have hf : (cmdFlavor w).wf = true := flavorOfTag_wf (cmdFmt w)
  unfold decode at h
  split at h
  case h_32 => cases h
  all_goals exact decodeRow_wf (by simp [Instr.wf, hf]) h

end Sys2Proof

namespace Sys2Proof.Machine

open Sys2Proof.Safety

/-- Settles O7. -/
theorem stepRunsTheDecodedInstruction : Obligations.StepRunsTheDecodedInstruction := by
  intro s q rest i hq hd
  unfold Presents at hq
  exact ⟨by simp [step, hq, hd], decode_wf hd⟩

/-! ## The ramp formulas under swapped endpoints (spec/10_state.md R29; spec/43_remap.md R145, R146) -/

theorem perform_remap {s : State} {q : Request} {rest : List HostMove} {n w : Nat} {table : Vector (BitVec w) n}
    {idx : BitVec 8} (h : Ready s q rest) (hi : idx.toNat < n) (hw : w ≤ 32) :
    AnswersScalar (perform s fun _ => remap table idx) s rest table[idx.toNat].toNat :=
  perform_scalar h (remap_within hi) (BitVec.toNat_setWidth_of_le hw)

theorem ramp6_swap (l h : Nat) {i : Nat} (hi : i < 8) : ramp6 l h i = ramp6 h l romConstants.inv6[i].toNat := by
  interval_cases i <;> simp [ramp6, romConstants, Nat.add_comm]

theorem ramp8_swap (l h : Nat) {i : Nat} (hi : i < 8) : ramp8 l h i = ramp8 h l romConstants.inv8[i].toNat := by
  interval_cases i <;> simp [ramp8, romConstants, Nat.add_comm]

/-- Settles O38: INV6 and INV8 answer the entry of their table, at which the formula is that of swapped endpoints. -/
theorem invertSelectsTheSameEntry : Obligations.InvertSelectsTheSameEntry := by
  intro s q rest hs hrom l h i hi
  have h6 : AnswersScalar (exec (.inv6 i) s) s rest s.rom.inv6[i.toNat].toNat := perform_remap hs hi (by decide)
  have h8 : AnswersScalar (exec (.inv8 i) s) s rest s.rom.inv8[i.toNat].toNat := perform_remap hs hi (by decide)
  rw [hrom] at h6 h8
  exact ⟨⟨_, h6, ramp6_swap l h hi⟩, ⟨_, h8, ramp8_swap l h hi⟩⟩

/-! ## What a response depends on -/

/-- Two outcomes that take the course of a request, with one result of their operations, give one response. -/
theorem perform_same_response {s s' : State} {q q' : Request} {rest rest' : List HostMove}
    {o o' : Host.Outcome State Fault Refusal} {op op' : Request → Except FaultCode Response}
    (hs : Ready s q rest) (hs' : Ready s' q' rest') (ho : o = perform s op) (ho' : o' = perform s' op')
    (h : op q = op' q') : ∃ resp, answered o = some resp ∧ answered o' = some resp := by
  rw [ho, ho', perform_ready op hs, perform_ready op' hs', h]
  cases op' q' with
  | ok resp => exact ⟨resp, rfl, rfl⟩
  | error code => exact ⟨.faulted code, rfl, rfl⟩

/-- Settles O13: the command word and the tables choose the operation, and it sees the request alone. -/
theorem responseDependsOnTheRequestAlone : Obligations.ResponseDependsOnTheRequestAlone := by
  intro s s' q rest rest' hrom hs hs'
  obtain ⟨op, hop⟩ := step_is_perform q.cmd
  exact perform_same_response hs hs' (hop s q rest hs.1 rfl) (hop s' q rest' hs'.1 rfl) (by rw [hrom])

/-! ### Fields of words and blocks that agree -/

/-- A field of a field. -/
theorem extract_extract {n : Nat} (v : BitVec n) {p w lo k : Nat} (h : lo + k ≤ w) :
    (v.extractLsb' p w).extractLsb' lo k = v.extractLsb' (p + lo) k := by
  apply BitVec.eq_of_getLsbD_eq
  intro i hi
  have hiw : lo + i < w := by omega
  simp [hi, hiw, Nat.add_assoc]

/-- Two words that agree on their low w bits. -/
theorem extract_low_congr {n : Nat} {v v' : BitVec n} {w : Nat} (h : v.toNat % 2 ^ w = v'.toNat % 2 ^ w) (lo k : Nat)
    (hk : lo + k ≤ w) : v.extractLsb' lo k = v'.extractLsb' lo k := by
  have hlow : v.extractLsb' 0 w = v'.extractLsb' 0 w := by
    apply BitVec.eq_of_toNat_eq
    simpa [extract_toNat] using h
  have := congrArg (BitVec.extractLsb' lo k) hlow
  rwa [extract_extract v hk, extract_extract v' hk, Nat.zero_add] at this

theorem low16_congr {a a' : Word} (h : a.toNat % 2 ^ 16 = a'.toNat % 2 ^ 16) : low16 a = low16 a' :=
  extract_low_congr h 0 16 (by decide)

theorem low8_congr {a a' : Word} (h : a.toNat % 2 ^ 8 = a'.toNat % 2 ^ 8) : low8 a = low8 a' :=
  extract_low_congr h 0 8 (by decide)

theorem word_congr {a a' : Word} (h : a.toNat % 2 ^ 32 = a'.toNat % 2 ^ 32) : a = a' := by
  simpa using extract_low_congr h 0 32 (by decide)

theorem colorLanes_congr {a a' : Word} (h : a.toNat % 2 ^ 24 = a'.toNat % 2 ^ 24) :
    laneR a = laneR a' ∧ laneG a = laneG a' ∧ laneB a = laneB a' :=
  ⟨extract_low_congr h 0 8 (by decide), extract_low_congr h 8 8 (by decide), extract_low_congr h 16 8 (by decide)⟩

/-- Two blocks with the same contents in each of the fields. -/
def SameFields (b b' : Block) (fields : List (Nat × Nat)) : Prop :=
  ∀ p ∈ fields, b.extractLsb' p.1 p.2 = b'.extractLsb' p.1 p.2

theorem sameFields_of_agreeFor {i : Instr} {q q' : Request} (h : AgreeFor i q q') :
    SameFields q.blk q'.blk (fieldsOfBlk i) := by
  intro p hp
  apply BitVec.eq_of_toNat_eq
  rw [extract_toNat, extract_toNat]
  exact h.2.2 p hp

/-- A part of a field on which two blocks agree. -/
theorem SameFields.extract {b b' : Block} {fields : List (Nat × Nat)} (h : SameFields b b' fields) {p w : Nat}
    (hp : (p, w) ∈ fields) {lo k : Nat} (hlo : p ≤ lo) (hk : lo + k ≤ p + w) :
    b.extractLsb' lo k = b'.extractLsb' lo k := by
  have hkw : lo - p + k ≤ w := by omega
  have := congrArg (BitVec.extractLsb' (lo - p) k) (h (p, w) hp)
  rwa [extract_extract b hkw, extract_extract b' hkw, Nat.add_sub_cancel' hlo] at this

theorem SameFields.block {b b' : Block} (h : SameFields b b' [(0, 128)]) : b = b' := by
  simpa using h (0, 128) (by simp)

theorem SameFields.mono {b b' : Block} {fields fields' : List (Nat × Nat)} (h : SameFields b b' fields)
    (hsub : fields' ⊆ fields) : SameFields b b' fields' :=
  fun p hp => h p (hsub hp)

/-- Agreement on the low n bits is agreement on every field below them. -/
theorem SameFields.of_below {b b' : Block} {n : Nat} (h : SameFields b b' [(0, n)]) {fields : List (Nat × Nat)}
    (hf : ∀ p ∈ fields, p.1 + p.2 ≤ n) : SameFields b b' fields :=
  fun p hp => h.extract (p := 0) (w := n) (by simp) (Nat.zero_le _) (by simpa using hf p hp)

/-! ### The reads of the block as fields -/

theorem texelNumber_lt (x y : BitVec 2) : texelNumber x y < 16 := by
  unfold texelNumber
  omega

theorem colorSel_eq_extract (b : Block) (o : Nat) {t : Nat} (ht : t < 16) :
    colorSel (blkField b (o + 4) 32) t = b.extractLsb' (8 * (o + 4) + 2 * t) 2 :=
  extract_extract b (by omega)

theorem alphaSel_eq_extract (b : Block) {t : Nat} (ht : t < 16) :
    alphaSel (blkField b 2 48) t = b.extractLsb' (16 + 3 * t) 3 :=
  extract_extract b (by omega)

theorem nibble_congr {b b' : Block} {x y : BitVec 2} (h : SameFields b b' [nibbleField x y]) :
    nibble b x y = nibble b' x y := by
  rw [nibble_eq, nibble_eq]
  exact h (nibbleField x y) (by simp)

theorem colorTexel_congr {b b' : Block} {o t : Nat} (ht : t < 16) (h : SameFields b b' (colorTexelFields o t))
    (k : Nat) : colorTexel b o t k = colorTexel b' o t k := by
  have hsel : b.extractLsb' (8 * (o + 4) + 2 * t) 2 = b'.extractLsb' (8 * (o + 4) + 2 * t) 2 :=
    h (8 * (o + 4) + 2 * t, 2) (by simp [colorTexelFields])
  have h0 : blkField b o 16 = blkField b' o 16 :=
    h.extract (p := 8 * o) (w := 32) (by simp [colorTexelFields]) (by omega) (by omega)
  have h1 : blkField b (o + 2) 16 = blkField b' (o + 2) 16 :=
    h.extract (p := 8 * o) (w := 32) (by simp [colorTexelFields]) (by omega) (by omega)
  simp only [colorTexel, colorSel_eq_extract _ _ ht, hsel, h0, h1]

theorem alphaTexel_congr {b b' : Block} {t : Nat} (ht : t < 16) (h : SameFields b b' (alphaTexelFields t)) :
    alphaTexel b t = alphaTexel b' t := by
  have hsel : b.extractLsb' (16 + 3 * t) 3 = b'.extractLsb' (16 + 3 * t) 3 :=
    h (16 + 3 * t, 3) (by simp [alphaTexelFields])
  have h0 : blkByte b 0 = blkByte b' 0 :=
    h.extract (p := 0) (w := 16) (by simp [alphaTexelFields]) (by omega) (by omega)
  have h1 : blkByte b 1 = blkByte b' 1 :=
    h.extract (p := 0) (w := 16) (by simp [alphaTexelFields]) (by omega) (by omega)
  simp only [alphaTexel, alphaSel_eq_extract _ ht, hsel, h0, h1]

/-- A decoded texel depends on the fields that DECT reads for it. -/
theorem texelDecoder_congr {f : Flavor} {texel : Block → BitVec 2 → BitVec 2 → Nat → Word}
    (hd : texelDecoder f = .ok texel) {b b' : Block} {x y : BitVec 2} {rnd : Bool}
    (h : SameFields b b' (fieldsOfBlk (.dect f x y rnd))) (k : Nat) : texel b x y k = texel b' x y k := by
  have ht := texelNumber_lt x y
  cases f with
  | dxt1 | dxt1a =>
    obtain rfl := Except.ok.inj hd
    exact colorTexel_congr ht h k
  | dxt3 =>
    obtain rfl := Except.ok.inj hd
    have hc := colorTexel_congr ht (h.mono (List.subset_cons_self _ _)) k
    have hn := nibble_congr (x := x) (y := y) (h.mono (by simp [fieldsOfBlk]))
    simp only [hc, hn]
  | dxt5 =>
    obtain rfl := Except.ok.inj hd
    have hc := colorTexel_congr ht (h.mono (List.subset_append_right _ _)) k
    have ha := alphaTexel_congr ht (h.mono (List.subset_append_left _ _))
    simp only [hc, ha]
  | dxt5a =>
    obtain rfl := Except.ok.inj hd
    simp only [alphaTexel_congr ht h]
  | unknown tag => cases hd

/-- What DECT reads of a block lies in the bytes that the flavor has. -/
theorem dectFields_below (f : Flavor) (x y : BitVec 2) (rnd : Bool) :
    ∀ p ∈ fieldsOfBlk (.dect f x y rnd), p.1 + p.2 ≤ 8 * blockBytes f := by
  have ht : texelAt x y < 16 := texelNumber_lt x y
  cases f <;>
    simp [fieldsOfBlk, colorTexelFields, alphaTexelFields, nibbleField, blockBytes, metadata] <;> omega

/-! ### The checks of a flavor -/

theorem onColorBlock_congr {f : Flavor} {go go' : Nat → Except FaultCode Response}
    (h : ∀ o, baseOf f = some o → go o = go' o) : onColorBlock f go = onColorBlock f go' := by
  rw [onColorBlock_eq, onColorBlock_eq]
  cases hb : baseOf f with
  | none => rfl
  | some o => exact h o hb

theorem onAlphaBlock_congr {f : Flavor} {go go' : Except FaultCode Response}
    (h : f = .dxt5 ∨ f = .dxt5a → go = go') :
    onAlphaBlock f go = onAlphaBlock f go' := by
  by_cases hf : HasRamp f
  · rw [h hf]
  · rw [onAlphaBlock_other hf, onAlphaBlock_other hf]

/-- Settles O14: each operation's result is a function of the fields on which the requests agree. -/
theorem inputsNotNamedHaveNoEffect : Obligations.InputsNotNamedHaveNoEffect := by
  intro i s s' q q' rest rest' hrom hs hs' hagree
  have hblk := sameFields_of_agreeFor hagree
  obtain ⟨ha, hb, -⟩ := hagree
  unfold exec
  cases i with
  | unpk565 => exact perform_same_response hs hs' rfl rfl (by simp only [low16_congr ha, word_congr hb])
  | pk565 =>
    obtain ⟨hr, hg, hbl⟩ := colorLanes_congr ha
    exact perform_same_response hs hs' rfl rfl (by simp only [hr, hg, hbl])
  | pkep32 | pkep16 => exact perform_same_response hs hs' rfl rfl (by simp only [word_congr ha, word_congr hb])
  | unpkep32 => exact perform_same_response hs hs' rfl rfl (by simp only [word_congr ha])
  | unpkep16 => exact perform_same_response hs hs' rfl rfl (by simp only [low16_congr ha])
  | pal1 | palnv => exact perform_same_response hs hs' rfl rfl (by simp only [low16_congr ha, low16_congr hb])
  | aramp | arampq => exact perform_same_response hs hs' rfl rfl (by simp only [low8_congr ha, low8_congr hb])
  | d1fl | d1tl | d5fl | d5tl | inv6 | inv8 => exact perform_same_response hs hs' rfl rfl (by simp only [hrom])
  | geta3 => exact perform_same_response hs hs' rfl rfl (by simp only [nibble_congr hblk])
  | seta3 | scep | scsel | sasel =>
    exact perform_same_response hs hs' rfl rfl (by simp only [word_congr ha, hblk.block])
  | saep => exact perform_same_response hs hs' rfl rfl (by simp only [low16_congr ha, hblk.block])
  | gcep f =>
    refine perform_same_response hs hs' rfl rfl (onColorBlock_congr fun o ho => ?_)
    have hfield : blkField q.blk o 32 = blkField q'.blk o 32 := hblk (8 * o, 32) (by simp [fieldsOfBlk, ho])
    rw [hfield]
  | gcsel f x y =>
    refine perform_same_response hs hs' rfl rfl (onColorBlock_congr fun o ho => ?_)
    have hsel := hblk (8 * (o + 4) + 2 * texelNumber x y, 2)
      (by simp [fieldsOfBlk, ho, texelAt, texelNumber])
    simp only [colorSel_eq_extract _ _ (texelNumber_lt x y), hsel]
  | gaep f =>
    refine perform_same_response hs hs' rfl rfl (onAlphaBlock_congr fun hf => ?_)
    have hfield : blkField q.blk 0 16 = blkField q'.blk 0 16 := hblk (0, 16) (by simp [fieldsOfBlk, hf])
    rw [hfield]
  | gasel f x y =>
    refine perform_same_response hs hs' rfl rfl (onAlphaBlock_congr fun hf => ?_)
    have hsel := hblk (16 + 3 * texelNumber x y, 3) (by simp [fieldsOfBlk, hf, texelAt, texelNumber])
    simp only [alphaSel_eq_extract _ (texelNumber_lt x y), hsel]
  | dect f x y rnd =>
    refine perform_same_response hs hs' rfl rfl ?_
    cases hd : texelDecoder f with
    | ok texel => simp only [texelDecoder_congr hd hblk]
    | error code => rfl
  | decb f rnd =>
    have htexel (x y : BitVec 2) : SameFields q.blk q'.blk (fieldsOfBlk (.dect f x y rnd)) :=
      SameFields.of_below hblk (dectFields_below f x y rnd)
    refine perform_same_response hs hs' rfl rfl ?_
    cases hd : texelDecoder f with
    | ok texel => simp only [texelDecoder_congr hd (htexel _ _)]
    | error code => rfl
  | fbpp | falpha | fblk => exact perform_same_response hs hs' rfl rfl rfl

end Sys2Proof.Machine

/-! # Proofs of the family of the block and of several units (spec/20_memory.md)

## The check that an operation fails -/

namespace Sys2Proof.Machine

open Sys2Proof.Safety

/-- The fault code that an operation's result raises, if it raises one. -/
def raised {α : Type} : Except FaultCode α → Option FaultCode
  | .ok _ => none
  | .error code => some code

@[simp] theorem raised_ok {α : Type} (v : α) : raised (.ok v : Except FaultCode α) = none := rfl

@[simp] theorem raised_error {α : Type} (code : FaultCode) :
    raised (.error code : Except FaultCode α) = some code := rfl

theorem raised_eq_some {α : Type} {result : Except FaultCode α} {code : FaultCode} :
    raised result = some code ↔ result = .error code := by
  cases result <;> simp

/-- A fault code is known by its number. -/
theorem fcodeOf_injective {code code' : FaultCode} (h : fcodeOf code = fcodeOf code') : code = code' := by
  revert h
  cases code <;> cases code' <;> decide

theorem faultStatus_injective {code code' : FaultCode} {op : BitVec 6}
    (h : faultStatus code op = faultStatus code' op) : code = code' := by
  apply fcodeOf_injective
  rw [← faultStatus_fcode code op, h, faultStatus_fcode]

/-- STATUS of the state that fault entry leaves. -/
theorem faults_status {o : Host.Outcome State Fault Refusal} {s t : State} {q : Request} {rest : List HostMove}
    {code : FaultCode} (h : Faults o s rest q code) (ho : o = .next t) :
    t.status = faultStatus code (cmdOp q.cmd) := by
  unfold Faults at h
  rw [faultStatus_eq, Host.Outcome.next.inj (ho.symm.trans h)]

/-- A request is faulted with the code that its operation raises, and with no other. -/
theorem faults_perform_iff {s : State} {q : Request} {rest : List HostMove}
    {op : Request → Except FaultCode Response} (hs : Ready s q rest) (code : FaultCode) :
    Faults (perform s op) s rest q code ↔ raised (op q) = some code := by
  rw [raised_eq_some]
  refine ⟨fun h => ?_, perform_error hs⟩
  cases ho : op q with
  | ok resp =>
    have hkept : s.status = faultStatus code (cmdOp q.cmd) := (faults_status h (perform_ok hs ho) :)
    have hready := hs.2
    rw [hkept, faultStatus_faulted] at hready
    cases hready
  | error code' =>
    have h' := perform_error hs ho
    rw [faultStatus_injective ((faults_status h h').symm.trans (faults_status h' h'))]

/-! ### What each check raises -/

@[simp] theorem raised_checkMax (code : FaultCode) (v bound : Nat) (go : Except FaultCode Response) :
    raised (checkMax code v bound go) = if bound < v then some code else raised go := by
  unfold checkMax
  split <;> rfl

theorem raised_onColorBlock (f : Flavor) {go : Nat → Except FaultCode Response} {failed : Option FaultCode}
    (h : ∀ o, raised (go o) = failed) :
    raised (onColorBlock f go) = if baseOf f = none then some .badFormat else failed := by
  rw [onColorBlock_eq]
  cases hb : baseOf f with
  | none => rfl
  | some o => exact h o

@[simp] theorem raised_onAlphaBlock (f : Flavor) (go : Except FaultCode Response) :
    raised (onAlphaBlock f go) = if f = .dxt5 ∨ f = .dxt5a then raised go else some .badFormat := by
  split
  next hf => rw [onAlphaBlock_ramp hf]
  next hf => rw [onAlphaBlock_other hf, raised_error]

@[simp] theorem raised_remap {n w : Nat} (table : Vector (BitVec w) n) (idx : BitVec 8) :
    raised (remap table idx) = if n ≤ idx.toNat then some .badIndex else none := by
  split
  next hi => rw [remap_above hi, raised_error]
  next hi => rw [remap_within (Nat.not_le.1 hi), raised_ok]

@[simp] theorem raised_answerQuery (v : Except FaultCode Nat) : raised (answerQuery v) = raised v := by
  cases v <;> rfl

@[simp] theorem raised_map (v : Except FaultCode Nat) (g : Nat → Nat) : raised (v.map g) = raised v := by
  cases v <;> rfl

@[simp] theorem raised_bitsPerPixel (f : Flavor) :
    raised (bitsPerPixel f) = if known f then none else some .badFormat := by
  cases f <;> rfl

@[simp] theorem raised_hasAlpha (f : Flavor) : raised (hasAlpha f) = if known f then none else some .badFormat := by
  cases f <;> rfl

/-- Every instruction takes the course of a request, and its operation raises the check of spec/60_exceptions.md R222
that fails first. -/
theorem exec_raises (i : Instr) (s : State) :
    ∃ op, exec i s = perform s op ∧ ∀ q, raised (op q) = operandFault i q := by
  cases i with
  | unpk565 | pk565 | geta3 | pal1 | palnv | aramp | arampq => exact ⟨_, rfl, fun _ => raised_ok _⟩
  | unpkep32 | unpkep16 | seta3 => exact ⟨_, rfl, fun _ => raised_checkMax ..⟩
  | pkep32 | pkep16 => exact ⟨_, rfl, fun _ => by simp [operandFault, ite_or]⟩
  | d1fl | d1tl | d5fl | d5tl | inv6 | inv8 => exact ⟨_, rfl, fun _ => raised_remap ..⟩
  | gcep | scep | gcsel => exact ⟨_, rfl, fun _ => raised_onColorBlock _ fun _ => rfl⟩
  | scsel => exact ⟨_, rfl, fun _ => raised_onColorBlock _ fun _ => raised_checkMax ..⟩
  | gaep | saep | gasel => exact ⟨_, rfl, fun _ => raised_onAlphaBlock ..⟩
  | sasel => exact ⟨_, rfl, fun _ => by simp [operandFault]⟩
  | dect f | decb f =>
    cases f with
    | unknown => exact ⟨_, rfl, fun _ => raised_error _⟩
    | _ => exact ⟨_, rfl, fun _ => raised_ok _⟩
  | fbpp | falpha | fblk => exact ⟨_, rfl, fun _ => by simp [operandFault]⟩

/-- The check that an operation fails, as fault entry (spec/60_exceptions.md R222, R225). -/
theorem exec_faults_iff {s : State} {q : Request} {rest : List HostMove} (hs : Ready s q rest) (i : Instr)
    (code : FaultCode) : Faults (exec i s) s rest q code ↔ operandFault i q = some code := by
  obtain ⟨op, hop, hraised⟩ := exec_raises i s
  rw [hop, faults_perform_iff hs, hraised]

/-- The fault of a request at decode or, once it is decoded, at a check of its operation. -/
def commandFault (q : Request) : Option FaultCode :=
  match decode q.cmd with
  | .ok i => operandFault i q
  | .error code => some code

/-- A step is fault entry with the code of the first check that its request fails, and with no other. -/
theorem step_faults_iff {s : State} {q : Request} {rest : List HostMove} (hs : Ready s q rest) (code : FaultCode) :
    Faults (step s) s rest q code ↔ commandFault q = some code := by
  unfold commandFault
  cases hd : decode q.cmd with
  | ok i =>
    rw [(stepRunsTheDecodedInstruction s q rest i hs.1 hd).1, exec_faults_iff hs]
  | error code' =>
    have hq : s.hostMoves = .request q :: rest := hs.1
    have hstep : step s = perform s fun _ => .error code' := by simp [step, hq, hd, raiseAtDecode]
    rw [hstep, faults_perform_iff hs, raised_error]

/-! ## The contents of the block raise no fault (spec/20_memory.md R52) -/

/-- No check of an operation reads BLK. -/
theorem operandFault_blk (i : Instr) (q : Request) (blk : Block) :
    operandFault i { q with blk := blk } = operandFault i q := by
  cases i <;> rfl

theorem commandFault_blk (q : Request) (blk : Block) : commandFault { q with blk := blk } = commandFault q := by
  simp only [commandFault, operandFault_blk]

/-- Settles O12: the code that a step faults with is read off the request without its block. -/
theorem noBlockContentsFault : Obligations.NoBlockContentsFault := by
  intro s s' q rest rest' blk hs hs' code
  rw [step_faults_iff hs, step_faults_iff hs', commandFault_blk q blk]

/-! ## Units side by side (spec/20_memory.md R53) -/

/-- A step of a schedule moves the unit that it names and no other; so each unit has made its own steps. -/
theorem runUnits_getElem? (schedule : List Nat) (us : List State) (n : Nat) :
    (runUnits schedule us)[n]? = us[n]?.map (advance^[schedule.count n]) := by
  induction schedule generalizing us with
  | nil => simp [runUnits]
  | cons m ns ih =>
    rw [runUnits, ih, List.getElem?_modify]
    by_cases hm : m = n
    · simp [hm, Option.map_map, Function.iterate_succ]
    · simp [hm]

/-- The tables are constant (spec/10_state.md R26). -/
@[simp] theorem advance_rom (u : State) : (advance u).rom = u.rom := by
  unfold advance
  split
  next t h => exact (statusChangesOnlyByFaultEntryAndReset u t h).1
  all_goals rfl

@[simp] theorem advance_iterate_rom (k : Nat) (u : State) : (advance^[k] u).rom = u.rom := by
  induction k generalizing u with
  | zero => rfl
  | succ k ih => rw [Function.iterate_succ_apply, ih, advance_rom]

theorem runUnits_rom {schedule : List Nat} {us : List State} {n : Nat} {u v : State} (hu : us[n]? = some u)
    (hv : (runUnits schedule us)[n]? = some v) : v.rom = u.rom := by
  rw [runUnits_getElem?, hu] at hv
  obtain rfl : advance^[schedule.count n] u = v := Option.some.inj hv
  exact advance_iterate_rom _ u

/-- A unit's response is the one that every ready unit with the same tables gives to the request. -/
theorem step_response_unique {v : State} {q : Request} {rest : List HostMove} (hv : Ready v q rest) :
    ∃ resp, answered (step v) = some resp ∧
      ∀ w rest', w.rom = v.rom → Ready w q rest' → answered (step w) = some resp := by
  obtain ⟨resp, hresp, -⟩ := responseDependsOnTheRequestAlone v v q rest rest rfl hv hv
  refine ⟨resp, hresp, fun w rest' hrom hw => ?_⟩
  obtain ⟨resp', hw', hv'⟩ := responseDependsOnTheRequestAlone w v q rest' rest hrom hw hv
  rw [hw', ← hv', hresp]

/-- Settles O19: a unit's own steps alone move it and keep its tables, and its response depends on nothing else. -/
theorem unitsAreIndependent : Obligations.UnitsAreIndependent := by
  intro schedule us n
  refine ⟨runUnits_getElem? schedule us n, fun u v q rest hu hv hready => ?_⟩
  obtain ⟨resp, hresp, hunique⟩ := step_response_unique hready
  exact ⟨resp, hresp, fun alone rest' hrom => hunique alone rest' (hrom.trans (runUnits_rom hu hv).symm)⟩

/-! ## The bytes above an 8-byte block (spec/20_memory.md R50) -/

/-- A response without a fault is one that the operation answered. -/
theorem ok_of_answered {s : State} {q : Request} {rest : List HostMove} {o : Host.Outcome State Fault Refusal}
    {op : Request → Except FaultCode Response} {resp : Response} (hs : Ready s q rest) (ho : o = perform s op)
    (h : answered o = some resp) (hf : resp.fault = false) : op q = .ok resp := by
  rw [ho, perform_ready op hs] at h
  cases hq : op q with
  | ok resp' =>
    rw [hq] at h
    exact congrArg _ (Option.some.inj h)
  | error code =>
    rw [hq] at h
    obtain rfl : Response.faulted code = resp := Option.some.inj h
    cases hf

theorem checkMax_eq_ok {code : FaultCode} {v bound : Nat} {go : Except FaultCode Response} {resp : Response} :
    checkMax code v bound go = .ok resp ↔ v ≤ bound ∧ go = .ok resp := by
  by_cases h : bound < v
  · simp [checkMax_above h, h]
  · simp [checkMax_within h, Nat.not_lt.1 h]

theorem onColorBlock_eq_ok {f : Flavor} {go : Nat → Except FaultCode Response} {resp : Response} :
    onColorBlock f go = .ok resp ↔ ∃ o, baseOf f = some o ∧ go o = .ok resp := by
  rw [onColorBlock_eq]
  cases baseOf f <;> simp

theorem onAlphaBlock_eq_ok {f : Flavor} {go : Except FaultCode Response} {resp : Response} :
    onAlphaBlock f go = .ok resp ↔ HasRamp f ∧ go = .ok resp := by
  by_cases h : HasRamp f
  · simp [onAlphaBlock_ramp h, h]
  · simp [onAlphaBlock_other h, h]

/-- The color block of an 8-byte flavor starts at byte 0. -/
theorem baseOf_of_eightBytes {f : Flavor} {o : Nat} (hf : blockBytes f = 8) (ho : baseOf f = some o) : o = 0 := by
  cases f <;> simp_all [baseOf, blockBytes, metadata]

/-- A response whose BO is BLK with n bytes written at byte o, all of them below byte 8. -/
theorem blockByte_upper_of_written {b : Block} {o n w : Nat} {f : BitVec w} {resp : Response}
    (h : (.ok (.block (writeBlkField b o f)) : Except FaultCode Response) = .ok resp) (hw : w = 8 * n)
    (hn : o + n ≤ 8) {j : Nat} (hj : 8 ≤ j) : blockByte resp.bo j = blockByte b j := by
  obtain rfl := Except.ok.inj h
  exact blockByte_writeBlkField b o f j n hw (by omega)

/-- Settles O50: each of the four operations writes a field of BLK that lies in its bytes 0..7. -/
theorem eightByteFlavorsPassTheUpperBytes : Obligations.EightByteFlavorsPassTheUpperBytes := by
  rintro i s q rest resp hs ⟨f, hf, rfl | rfl | ⟨x, y, rfl | rfl⟩⟩ hresp hfault j hj -
  · obtain ⟨o, ho, hgo⟩ := onColorBlock_eq_ok.1 (ok_of_answered hs rfl hresp hfault)
    obtain rfl := baseOf_of_eightBytes hf ho
    exact blockByte_upper_of_written (n := 4) hgo rfl (by decide) hj
  · obtain ⟨-, hgo⟩ := onAlphaBlock_eq_ok.1 (ok_of_answered hs rfl hresp hfault)
    exact blockByte_upper_of_written (n := 2) hgo rfl (by decide) hj
  · obtain ⟨o, ho, hgo⟩ := onColorBlock_eq_ok.1 (ok_of_answered hs rfl hresp hfault)
    obtain rfl := baseOf_of_eightBytes hf ho
    exact blockByte_upper_of_written (n := 4) (checkMax_eq_ok.1 hgo).2 rfl (by decide) hj
  · obtain ⟨-, hgo⟩ := onAlphaBlock_eq_ok.1 (ok_of_answered hs rfl hresp hfault)
    exact blockByte_upper_of_written (n := 6) (checkMax_eq_ok.1 hgo).2 rfl (by decide) hj

end Sys2Proof.Machine

/-! # Proofs of the family of the encoding (spec/30_encoding.md): the decoder, the encoder and the assembler

## The fields of assembled and of masked words (R61) -/

namespace Sys2Proof

open Sys2Proof.Machine Sys2Proof.Safety

@[simp] theorem fields_assembleFields (op : BitVec 6) (s r : Bool) (x y : BitVec 2) (f : BitVec 4) (i : BitVec 8) :
    cmdS (assembleFields op s r x y f i) = s ∧ cmdRnd (assembleFields op s r x y f i) = r ∧
      cmdX (assembleFields op s r x y f i) = x ∧ cmdY (assembleFields op s r x y f i) = y ∧
      cmdFmt (assembleFields op s r x y f i) = f ∧ cmdImm8 (assembleFields op s r x y f i) = i := by
  have hbool := Function.LeftInverse.injective Bool.ofNat_toNat
  have hop := op.isLt
  have hs := s.toNat_le
  have hr := r.toNat_le
  have hx := x.isLt
  have hy := y.isLt
  have hf := f.isLt
  have hi := i.isLt
  refine ⟨hbool ?_, hbool ?_, BitVec.eq_of_toNat_eq ?_, BitVec.eq_of_toNat_eq ?_, BitVec.eq_of_toNat_eq ?_,
      BitVec.eq_of_toNat_eq ?_⟩ <;>
    simp only [cmdS_toNat, cmdRnd_toNat, cmdX_toNat, cmdY_toNat, cmdFmt_toNat, cmdImm8_toNat, assembleFields_toNat] <;>
    omega

theorem fields_and (w m : Word) :
    cmdOp (w &&& m) = cmdOp w &&& cmdOp m ∧ cmdS (w &&& m) = (cmdS w && cmdS m) ∧
      cmdRnd (w &&& m) = (cmdRnd w && cmdRnd m) ∧ cmdX (w &&& m) = cmdX w &&& cmdX m ∧
      cmdY (w &&& m) = cmdY w &&& cmdY m ∧ cmdFmt (w &&& m) = cmdFmt w &&& cmdFmt m ∧
      cmdImm8 (w &&& m) = cmdImm8 w &&& cmdImm8 m :=
  ⟨BitVec.extractLsb'_and, BitVec.getLsbD_and, BitVec.getLsbD_and, BitVec.extractLsb'_and, BitVec.extractLsb'_and,
    BitVec.extractLsb'_and, BitVec.extractLsb'_and⟩

/-- A word under a mask that has OP and not the reserved byte is the assembly of its masked fields. -/
theorem and_eq_assembleFields (w : Word) {m : Word} (hm : m.toNat < 16777216) (hop : cmdOp m = BitVec.allOnes 6) :
    w &&& m = assembleFields (cmdOp w) (cmdS w && cmdS m) (cmdRnd w && cmdRnd m) (cmdX w &&& cmdX m)
      (cmdY w &&& cmdY m) (cmdFmt w &&& cmdFmt m) (cmdImm8 w &&& cmdImm8 m) := by
  have hlt : (w &&& m).toNat < 16777216 := lt_of_le_of_lt Nat.and_le_right hm
  have h := assembleFields_self _ hlt
  simpa only [fields_and, hop, BitVec.and_allOnes] using h.symm

theorem coordinate_and_mask (x : BitVec 2) : x &&& 3#2 = x := BitVec.and_allOnes
theorem fmt_and_mask (f : BitVec 4) : f &&& 15#4 = f := BitVec.and_allOnes
theorem imm8_and_mask (i : BitVec 8) : i &&& 255#8 = i := BitVec.and_allOnes

theorem and_eq_of_and_not_eq_zero {w m : Word} (h : w &&& ~~~m = 0) : w &&& m = w := by
  have hbits : ∀ w m : Bool, (w && !m) = false → (w && m) = w := by decide
  refine BitVec.eq_of_getElem_eq fun n hn => ?_
  rw [BitVec.getElem_and]
  exact hbits _ _ (by simpa using congrArg (fun v => v[n]) h)

/-- Outside the used fields a word has its bits under p and no other exactly if it has no bit outside both. -/
theorem and_not_eq_and_iff {w used p : Word} (h : used &&& p = 0) :
    w &&& ~~~used = w &&& p ↔ w &&& ~~~(p ||| used) = 0 := by
  have hbits : ∀ w u p : Bool, (u && p) = false → ((w && !u) = (w && p) ↔ (w && !(p || u)) = false) := by decide
  have hdisjoint (n : Nat) (hn : n < 32) : (used[n] && p[n]) = false := by
    simpa using congrArg (fun v => v[n]) h
  simp only [BitVec.eq_of_getElem_eq_iff, BitVec.getElem_and, BitVec.getElem_or, BitVec.getElem_not,
    BitVec.ofNat_eq_ofNat, BitVec.getElem_zero]
  exact forall₂_congr fun n hn => hbits _ _ _ (hdisjoint n hn)

/-! ## What the decoder does with a word (R63, R66, R67) -/

/-- The OP values that R67 lists. -/
def unassignedOps : List Nat :=
  [0x00, 0x07, 0x0C, 0x0D, 0x0E, 0x0F, 0x16, 0x17, 0x1A, 0x1B, 0x1C, 0x1D, 0x1E, 0x1F, 0x2A, 0x2B, 0x2C, 0x2D, 0x2E,
    0x2F, 0x33, 0x34, 0x35, 0x36, 0x37, 0x38, 0x39, 0x3A, 0x3B, 0x3C, 0x3D, 0x3E, 0x3F]

theorem usedFields_eq_none_iff {op : Nat} (h : op < 64) : usedFields op = none ↔ op ∈ unassignedOps := by
  decide +revert

/-- What R63 and R66 say of a word with an assigned OP: without its bits outside OP and the used fields it is the word
of one instruction, and the result is that instruction or, where such a bit is set, RESERVED_FIELD. -/
def RowDecodes (w : Word) (result : Except FaultCode Instr) : Prop :=
  ∃ used i, usedFields (w.toNat % 64) = some used ∧ used &&& 0x3F = 0 ∧ encode i = w &&& (0x3F ||| used) ∧
    result = if w &&& ~~~(0x3F ||| used) = 0 then .ok i else .error .reservedField

theorem rowDecodes_decodeRow {w mask pattern used : Word} {n : Nat} {i : Instr} (hn : (cmdOp w).toNat = n)
    (hused : usedFields n = some used) (hmask : mask = ~~~used) (hpattern : pattern = BitVec.ofNat 32 n)
    (hdisjoint : used &&& 0x3F = 0) (hi : cmdOp w = BitVec.ofNat 6 n → encode i = w &&& (0x3F ||| used)) :
    RowDecodes w (decodeRow w mask pattern i) := by
  rw [cmdOp_toNat] at hn
  refine ⟨used, i, by rw [hn, hused], hdisjoint, hi ?_, ?_⟩
  · exact BitVec.eq_of_toNat_eq (by rw [cmdOp_toNat, hn, BitVec.toNat_ofNat]; omega)
  · have hop : w &&& 0x3F = pattern := by rw [opBits_eq, hn, hpattern]
    simp only [decodeRow, hmask, ← hop, and_not_eq_and_iff hdisjoint]

/-- Everything that the decoder can do: ILLEGAL_OPCODE for an unassigned OP, and the row of any other. -/
theorem decode_cases (w : Word) :
    usedFields (w.toNat % 64) = none ∧ decode w = .error .illegalOpcode ∨ RowDecodes w (decode w) := by
  unfold decode
  split
  case h_32 =>
    refine .inl ⟨?_, rfl⟩
    have hlt := (cmdOp w).isLt
    rw [← cmdOp_toNat, usedFields_eq_none_iff hlt]
    simp only [unassignedOps, List.mem_cons, List.not_mem_nil, imp_false] at *
    omega
  all_goals
    next hn =>
      refine .inr (rowDecodes_decodeRow hn rfl rfl rfl rfl fun hop => ?_)
      rw [and_eq_assembleFields w (by decide) rfl, hop]
      simp [encode, encodePlain, encodeImm, encodeFmt, encodeTexel, cmdFlavor, tagOfFlavor_flavorOfTag,
        coordinate_and_mask, fmt_and_mask, imm8_and_mask, cmdX, cmdY, cmdFmt, cmdImm8, cmdS, cmdRnd]

theorem decode_illegalOpcode_iff (w : Word) :
    decode w = .error .illegalOpcode ↔ usedFields (w.toNat % 64) = none := by
  rcases decode_cases w with ⟨hused, hw⟩ | ⟨used, i, hused, -, -, hw⟩
  · exact iff_of_true hw hused
  · rw [hw, hused]
    split <;> simp

theorem decode_reservedField_iff (w : Word) :
    decode w = .error .reservedField ↔
      ∃ used, usedFields (w.toNat % 64) = some used ∧ w &&& ~~~(0x3F ||| used) ≠ 0 := by
  rcases decode_cases w with ⟨hused, hw⟩ | ⟨used, i, hused, -, -, hw⟩
  · simp [hw, hused]
  · rw [hw, hused]
    by_cases h : w &&& ~~~(0x3F ||| used) = 0
    · rw [if_pos h]
      refine iff_of_false (fun e => nomatch e) ?_
      rintro ⟨_, e, hne⟩
      exact hne (Option.some.inj e ▸ h)
    · rw [if_neg h]
      exact iff_of_true rfl ⟨used, rfl, h⟩

/-- Settles O3: the decoded instruction's word is w without its bits outside OP and the used fields; it has none. -/
theorem encodeAfterDecode : Obligations.EncodeAfterDecode := by
  intro w i h
  refine ⟨decode_wf h, ?_⟩
  rcases decode_cases w with ⟨-, hw⟩ | ⟨used, j, -, -, hencode, hw⟩
  · cases hw.symm.trans h
  · rw [hw] at h
    split at h
    next hzero => rw [← Except.ok.inj h, hencode, and_eq_of_and_not_eq_zero hzero]
    next => cases h

/-- Settles O1. -/
theorem writtenOutWordsDecode : Obligations.WrittenOutWordsDecode := by
  unfold Obligations.WrittenOutWordsDecode
  decide

/-! ## The rows of the opcode map that a word matches (R66, R68) -/

theorem filter_opcodeRows_op {op : Nat} (h : op < 64) :
    (opcodeRows.filter fun row => row.2 = BitVec.ofNat 32 op) =
      (usedFields op).toList.map fun used => (~~~used, BitVec.ofNat 32 op) := by
  interval_cases op <;> rfl

theorem opcodeRows_keep_op : ∀ row ∈ opcodeRows, 0x3F &&& row.1 = 0x3F ∧ row.2 &&& 0x3F = row.2 := by
  have hall : opcodeRows.all (fun row => 0x3F &&& row.1 = 0x3F ∧ row.2 &&& 0x3F = row.2) = true := rfl
  simpa only [List.all_eq_true, decide_eq_true_eq] using hall

theorem opBits_of_row {w : Word} {row : Word × Word} (hrow : row ∈ opcodeRows) (h : w &&& row.1 = row.2) :
    w &&& 0x3F = row.2 := by
  obtain ⟨hmask, hpattern⟩ := opcodeRows_keep_op row hrow
  rw [← hpattern, ← h, BitVec.and_assoc, BitVec.and_comm row.1, hmask]

/-- The only row that a word can match is the one of its OP. -/
theorem filter_opcodeRows (w : Word) :
    (opcodeRows.filter fun row => w &&& row.1 = row.2) =
      ((usedFields (w.toNat % 64)).toList.map fun used => (~~~used, w &&& 0x3F)).filter
        fun row => w &&& row.1 = row.2 := by
  rw [opBits_eq, ← filter_opcodeRows_op (Nat.mod_lt _ (by decide)), ← opBits_eq, List.filter_filter]
  refine List.filter_congr fun row hrow => ?_
  have hop := opBits_of_row (w := w) hrow
  by_cases h : w &&& row.1 = row.2
  · simp only [h, hop h, decide_true, Bool.and_self]
  · simp only [h, decide_false, Bool.false_and]

theorem decode_selects_row (w : Word) :
    ((∃ i, decode w = .ok i) ∧ (opcodeRows.filter fun row => w &&& row.1 = row.2).length = 1) ∨
    ((decode w = .error .illegalOpcode ∨ decode w = .error .reservedField) ∧
      opcodeRows.filter (fun row => w &&& row.1 = row.2) = []) := by
  rw [filter_opcodeRows]
  rcases decode_cases w with ⟨hused, hw⟩ | ⟨used, i, hused, hdisjoint, -, hw⟩
  · exact .inr ⟨.inl hw, by rw [hused]; rfl⟩
  · rw [hw, hused, Option.toList_some, List.map_singleton, List.filter_singleton]
    simp only [and_not_eq_and_iff hdisjoint]
    by_cases h : w &&& ~~~(0x3F ||| used) = 0
    · simp only [h, if_true]
      exact .inl ⟨⟨i, rfl⟩, rfl⟩
    · simp only [h, if_false]
      exact .inr ⟨.inr trivial, rfl⟩

/-! ## Decoding an encoded instruction (R61, R64, R66) -/

@[simp] theorem flavorOfTag_tagOfFlavor {f : Flavor} (h : f.wf = true) : flavorOfTag (tagOfFlavor f) = f := by
  cases f with
  | unknown tag => revert tag; decide
  | _ => rfl

theorem decodeRow_eq_ok {w mask pattern : Word} {i j : Instr} (h : decodeRow w mask pattern i = .ok j) : j = i := by
  unfold decodeRow at h
  split at h
  · exact (Except.ok.inj h).symm
  · cases h

/-- The OP of an encoded instruction leads to its row, and the fields read there are the instruction's own. -/
theorem eq_of_decode_encode {i j : Instr} (hi : i.wf = true) (h : decode (encode i) = .ok j) : j = i := by
  cases i <;> simp only [Instr.wf] at hi <;>
    simp only [encode, encodePlain, encodeImm, encodeFmt, encodeTexel, decode, cmdFlavor, cmdOp_assembleFields,
      fields_assembleFields, BitVec.reduceToNat, BitVec.ofNat_eq_ofNat, flavorOfTag_tagOfFlavor, hi] at h <;>
    exact decodeRow_eq_ok h

open Laws.EncodedRow in
theorem encodedRow (i : Instr) : Statement i := by
  cases i
  exacts [unpk565 _, pk565 _ _, pkep32, unpkep32 _, pkep16, unpkep16 _, pal1 _, palnv, aramp, arampq, d1fl _, d1tl _,
    d5fl _, d5tl _, inv6 _, inv8 _, geta3 _ _ _, seta3 _ _ _, gcep _, scep _, gcsel _ _ _, scsel _ _ _, gaep _, saep _,
    gasel _ _ _, sasel _ _ _, dect _ _ _ _, decb _ _, fbpp _, falpha _, fblk _]

theorem decode_encode_ok (i : Instr) : ∃ j, decode (encode i) = .ok j := by
  obtain ⟨row, hrow, hmatch, -⟩ := encodedRow i
  rcases decode_selects_row (encode i) with ⟨h, -⟩ | ⟨-, hnone⟩
  · exact h
  · have hmem : row ∈ opcodeRows.filter fun row => encode i &&& row.1 = row.2 :=
      List.mem_filter.2 ⟨hrow, decide_eq_true hmatch⟩
    rw [hnone] at hmem
    cases hmem

/-- Settles O2: the encoded word matches a row, so that it decodes, and to nothing but the instruction. -/
theorem decodeAfterEncode : Obligations.DecodeAfterEncode := by
  intro i hi
  obtain ⟨j, hj⟩ := decode_encode_ok i
  rw [hj, eq_of_decode_encode hi hj]

end Sys2Proof

/-! ## Requests with a word that does not decode (R63, R67, R68) -/

namespace Sys2Proof.Machine

open Sys2Proof.Safety

theorem step_faults_of_decode_error {s : State} {q : Request} {rest : List HostMove} {code : FaultCode}
    (hs : Ready s q rest) (hd : decode q.cmd = .error code) : Faults (step s) s rest q code :=
  (step_faults_iff hs code).2 (by simp only [commandFault, hd])

/-- Settles O4. -/
theorem everyWordSelectsOneRowOrOneFault : Obligations.EveryWordSelectsOneRowOrOneFault :=
  ⟨decode_selects_row, fun _ _ _ _ => step_faults_of_decode_error⟩

/-- Settles O5. -/
theorem unassignedOpcodesTrap : Obligations.UnassignedOpcodesTrap :=
  ⟨fun w => (decode_illegalOpcode_iff w).trans (usedFields_eq_none_iff (Nat.mod_lt _ (by decide))),
    fun _ _ _ => step_faults_of_decode_error⟩

/-- Settles O6. -/
theorem unusedFieldsMustBeZero : Obligations.UnusedFieldsMustBeZero :=
  ⟨decode_reservedField_iff, fun _ _ _ => step_faults_of_decode_error⟩

/-! ## The request of a line (R69) -/

theorem fitBits_of_lt {n : Nat} {v : Option Nat} (h : v.getD 0 < 2 ^ n) :
    fitBits n v = some (BitVec.ofNat n (v.getD 0)) :=
  if_pos h

/-- A block is its bytes as the digits of a number, byte 0 first. -/
theorem blockOfBytes_toNat {ns : List Nat} {b : Block} (h : blockOfBytes ns = some b) :
    b.toNat = Nat.ofDigits 256 ns ∧ ns.length ≤ 16 ∧ ∀ n ∈ ns, n < 256 := by
  induction ns generalizing b with
  | nil =>
    cases h
    exact ⟨rfl, by simp, by simp⟩
  | cons n ns ih =>
    unfold blockOfBytes at h
    split at h
    next rest hrest =>
      split at h
      next hfits =>
        obtain ⟨hn, hlen⟩ := hfits
        obtain ⟨hval, -, hbytes⟩ := ih hrest
        obtain rfl := Option.some.inj h
        have hlt : rest.toNat < 256 ^ 15 := by
          rw [hval]
          exact (Nat.ofDigits_lt_base_pow_length (by decide) hbytes).trans_le
            (Nat.pow_le_pow_right (by decide) (Nat.le_of_lt_succ hlen))
        refine ⟨?_, hlen, List.forall_mem_cons.2 ⟨hn, hbytes⟩⟩
        rw [Nat.ofDigits_cons, ← hval, BitVec.toNat_or, BitVec.toNat_shiftLeft, BitVec.toNat_ofNat,
          Nat.mod_eq_of_lt (a := n) (by omega), Nat.mod_eq_of_lt (by rw [Nat.shiftLeft_eq]; omega),
          ← Nat.shiftLeft_add_eq_or_of_lt hn, Nat.shiftLeft_eq]
        omega
      next => cases h
    next => cases h

theorem blockByte_blockOfBytes {ns : List Nat} {b : Block} (h : blockOfBytes ns = some b) (j : Nat) :
    blockByte b j = ns.getD j 0 := by
  obtain ⟨hval, -, hbytes⟩ := blockOfBytes_toNat h
  rw [blockByte, hval, Nat.ofDigits_div_pow_eq_ofDigits_drop _ (by decide) _ hbytes]
  by_cases hj : j < ns.length
  · have hbyte := hbytes _ (List.getElem_mem hj)
    rw [List.drop_eq_getElem_cons hj, Nat.ofDigits_cons, List.getD_eq_getElem _ _ hj]
    omega
  · rw [List.drop_eq_nil_of_le (by omega), List.getD_eq_default _ _ (by omega), Nat.ofDigits_nil, Nat.zero_mod]

/-- A line that makes a request has every field and operand fitted. -/
theorem requestOf_eq_some {op : BitVec 6} {line : AsmLine} {q : Request} (h : requestOf op line = some q) :
    ∃ fmt x y imm, fitBits 4 line.fmt = some fmt ∧ fitBits 2 line.x = some x ∧ fitBits 2 line.y = some y ∧
      fitBits 8 line.imm = some imm ∧ q.cmd = assembleFields op line.scaled line.round x y fmt imm ∧
      fitBits 32 line.a = some q.a ∧ fitBits 32 line.b = some q.b ∧ blockOfBytes (line.blk.getD []) = some q.blk := by
  unfold requestOf at h
  split at h
  next fmt x y imm hfmt hx hy himm =>
    split at h
    next a b blk ha hb hblk =>
      obtain rfl := Option.some.inj h
      exact ⟨fmt, x, y, imm, hfmt, hx, hy, himm, rfl, ha, hb, hblk⟩
    next => cases h
  next => cases h

theorem requestOf_toNat {op : BitVec 6} {line : AsmLine} {q : Request} (h : requestOf op line = some q) :
    q.cmd.toNat = op.toNat + 64 * line.scaled.toNat + 128 * line.round.toNat + 256 * line.x.getD 0 +
      1024 * line.y.getD 0 + 4096 * line.fmt.getD 0 + 65536 * line.imm.getD 0 ∧
    q.a.toNat = line.a.getD 0 ∧ q.b.toNat = line.b.getD 0 ∧
    ∀ j, blockByte q.blk j = (line.blk.getD []).getD j 0 := by
  obtain ⟨fmt, x, y, imm, hfmt, hx, hy, himm, hcmd, ha, hb, hblk⟩ := requestOf_eq_some h
  refine ⟨?_, fitBits_toNat ha, fitBits_toNat hb, blockByte_blockOfBytes hblk⟩
  rw [hcmd, assembleFields_toNat, fitBits_toNat hfmt, fitBits_toNat hx, fitBits_toNat hy, fitBits_toNat himm]

theorem assembleLine_eq_some (text : String) (q : Request) :
    assembleLine text = some q ↔
      ∃ line line' op, readLine text = some line ∧ expandPseudo line = some line' ∧
        findOp line'.mnemonic opOfMnemonic = some op ∧ requestOf op line' = some q := by
  unfold assembleLine
  cases readLine text with
  | none => simp
  | some line =>
    cases hexpand : expandPseudo line with
    | none => simp [hexpand]
    | some line' => cases hop : findOp line'.mnemonic opOfMnemonic <;> simp [hexpand, hop]

/-- Settles O58. -/
theorem writtenOutTextsAssemble : Obligations.WrittenOutTextsAssemble := by
  unfold Obligations.WrittenOutTextsAssemble
  decide

/-! ## The line of an instruction (R66, R69) -/

/-- The mnemonics of R70, which have no OP. -/
def pseudoMnemonics : List (List Char) :=
  ["NOP".toList, "PK565N".toList, "DEC1".toList, "DEC1A".toList, "DEC3".toList, "DEC5".toList, "DEC5A".toList,
    "DECB1".toList, "DECB1A".toList, "DECB3".toList, "DECB5".toList, "DECB5A".toList, "SWAPEP".toList]

theorem findOp_pseudo : ∀ m ∈ pseudoMnemonics, findOp m opOfMnemonic = none := by
  decide

/-- A line whose mnemonic has an OP is no pseudo-instruction. -/
theorem expandPseudo_of_findOp {line : AsmLine} {op : BitVec 6} (h : findOp line.mnemonic opOfMnemonic = some op) :
    expandPseudo line = some line := by
  have hm : ∀ m ∈ pseudoMnemonics, line.mnemonic ≠ m := by
    rintro m hm rfl
    cases h.symm.trans (findOp_pseudo _ hm)
  simp only [pseudoMnemonics, List.forall_mem_cons] at hm
  simp only [expandPseudo, hm, if_false]

theorem findOp_lineOf (i : Instr) : findOp (lineOf i).mnemonic opOfMnemonic = some (cmdOp (encode i)) := by
  cases i <;> simp only [encode, encodePlain, encodeImm, encodeFmt, encodeTexel, cmdOp_assembleFields] <;> rfl

/-- The line of an instruction with the operands a and b. -/
def lineWith (i : Instr) (a b : Option Nat) : AsmLine := { lineOf i with a := a, b := b }

theorem lineWith_none (i : Instr) : lineWith i none none = lineOf i := by
  cases i <;> rfl

theorem requestOf_lineWith (i : Instr) {a b : Option Nat} {va vb : Word} (ha : fitBits 32 a = some va)
    (hb : fitBits 32 b = some vb) :
    requestOf (cmdOp (encode i)) (lineWith i a b) = some { cmd := encode i, a := va, b := vb, blk := 0 } := by
  cases i <;>
    simp [encode, encodePlain, encodeImm, encodeFmt, encodeTexel, requestOf, lineWith, lineOf, bareLine, fmtOf,
      blockOfBytes, ha, hb]

/-- Settles O57. -/
theorem assembledCommandWord : Obligations.AssembledCommandWord := by
  refine ⟨fun op line q => requestOf_toNat, assembleLine_eq_some, fun i _ => ?_⟩
  have hrequest := requestOf_lineWith i (fitBits_none 32) (fitBits_none 32)
  rw [lineWith_none] at hrequest
  exact ⟨expandPseudo_of_findOp (findOp_lineOf i), findOp_lineOf i, hrequest⟩

/-! ## Pseudo-instructions (R70) -/

/-- The pseudo-instructions of a texel decode with the operations and the tags that they stand for. -/
def decodePseudos : List (String × String × Nat) :=
  [("DEC1", "DECT", 0), ("DEC1A", "DECT", 1), ("DEC3", "DECT", 2), ("DEC5", "DECT", 3), ("DEC5A", "DECT", 4),
    ("DECB1", "DECB", 0), ("DECB1A", "DECB", 1), ("DECB3", "DECB", 2), ("DECB5", "DECB", 3), ("DECB5A", "DECB", 4)]

theorem withFmt_of_fmt_none {line : AsmLine} (hfmt : line.fmt = none) (mnemonic : String) (tag : Nat) :
    withFmt line mnemonic tag = some { line with mnemonic := mnemonic.toList, fmt := some tag } := by
  simp only [withFmt, hfmt, fillOnce, Option.map_some]

theorem expandPseudo_decodePseudos (line : AsmLine) :
    ∀ p ∈ decodePseudos, expandPseudo { line with mnemonic := p.1.toList } =
      withFmt { line with mnemonic := p.1.toList } p.2.1 p.2.2 := by
  simp only [decodePseudos, List.forall_mem_cons, List.not_mem_nil]
  exact ⟨rfl, rfl, rfl, rfl, rfl, rfl, rfl, rfl, rfl, rfl, fun _ h => h.elim⟩

theorem expandPseudo_nop (a : Option Nat) :
    expandPseudo { bareLine "NOP" with a := a } = some (lineWith (.fbpp .dxt1) a none) :=
  rfl

theorem expandPseudo_pk565n (a : Option Nat) :
    expandPseudo { bareLine "PK565N" with a := a } = some (lineWith (.pk565 true 128) a none) :=
  rfl

theorem expandPseudo_swapep {a : Option Nat} (ha : a.getD 0 < 4294967296) :
    expandPseudo { bareLine "SWAPEP" with a := a } =
      some (lineWith .pkep32 (some (a.getD 0 / 65536)) (some (a.getD 0 % 65536))) := by
  change expandSwap { bareLine "SWAPEP" with a := a } = _
  simp [expandSwap, lineWith, lineOf, bareLine, ha, fillOnce]

/-- The request of an instruction's line runs the instruction on the line's operands. -/
theorem step_lineWith {i : Instr} (hi : i.wf = true) {a b : Option Nat} (ha : a.getD 0 < 4294967296)
    (hb : b.getD 0 < 4294967296) (s : State) (rest : List HostMove) :
    ∃ q, requestOf (cmdOp (encode i)) (lineWith i a b) = some q ∧ q.a.toNat = a.getD 0 ∧ q.b.toNat = b.getD 0 ∧
      step { s with hostMoves := .request q :: rest } = exec i { s with hostMoves := .request q :: rest } := by
  refine ⟨_, requestOf_lineWith i (fitBits_of_lt ha) (fitBits_of_lt hb), Nat.mod_eq_of_lt ha, Nat.mod_eq_of_lt hb, ?_⟩
  exact (stepRunsTheDecodedInstruction _ _ rest i (by rfl) (decodeAfterEncode i hi)).1

theorem joinHalves_toNat {a b : Word} (ha : a.toNat < 65536) (hb : b.toNat < 65536) :
    (a ||| b <<< 16).toNat = a.toNat + 65536 * b.toNat := by
  rw [BitVec.toNat_or, BitVec.toNat_shiftLeft, Nat.or_comm, Nat.mod_eq_of_lt (by rw [Nat.shiftLeft_eq]; omega),
    ← Nat.shiftLeft_add_eq_or_of_lt ha, Nat.shiftLeft_eq]
  omega

theorem exec_pkep32_answers {s : State} {q : Request} {rest : List HostMove} (hs : Ready s q rest)
    (ha : q.a.toNat < 65536) (hb : q.b.toNat < 65536) :
    AnswersScalar (exec .pkep32 s) s rest (q.a.toNat + 65536 * q.b.toNat) :=
  perform_scalar hs (by rw [checkMax_within (by omega), checkMax_within (by omega)]) (joinHalves_toNat ha hb)

theorem exec_fbpp_dxt1_answers {s : State} {q : Request} {rest : List HostMove} (hs : Ready s q rest) :
    AnswersScalar (exec (.fbpp .dxt1) s) s rest 4 :=
  perform_scalar (op := fun _ => answerQuery (bitsPerPixel .dxt1)) (r := 4) hs rfl rfl

/-- Settles O59: the expansions are the lines of FBPP, PK565 and PKEP32, whose requests run these operations. -/
theorem pseudoInstructionsMeanTheirExpansions : Obligations.PseudoInstructionsMeanTheirExpansions := by
  refine ⟨fun line hfmt p hp => (expandPseudo_decodePseudos line p hp).trans (withFmt_of_fmt_none hfmt ..), ?_⟩
  rintro s rest ⟨m, _, _, _, _, _, _, a, _, _⟩ hs rfl rfl rfl rfl rfl rfl rfl rfl ha
  have hready (q : Request) : Ready { s with hostMoves := .request q :: rest } q rest := ⟨rfl, hs⟩
  refine ⟨?nop, ?pk565n, ?swapep⟩
  case nop =>
    obtain ⟨q, hq, -, -, hstep⟩ := step_lineWith (i := .fbpp .dxt1) (b := none) rfl ha (by decide) s rest
    exact ⟨_, q, expandPseudo_nop a, rfl, hq, hstep ▸ exec_fbpp_dxt1_answers (hready q)⟩
  case pk565n =>
    obtain ⟨q, hq, hqa, -, hstep⟩ := step_lineWith (i := .pk565 true 128) (b := none) rfl ha (by decide) s rest
    exact ⟨_, q, expandPseudo_pk565n a, rfl, hq, hqa, hstep⟩
  case swapep =>
    have ha' : a.getD 0 < 4294967296 := ha
    obtain ⟨q, hq, hqa, hqb, hstep⟩ := step_lineWith (i := .pkep32) (a := some (a.getD 0 / 65536))
      (b := some (a.getD 0 % 65536)) rfl (by simp; omega) (by simp; omega) s rest
    simp only [Option.getD_some] at hqa hqb
    have hanswer := exec_pkep32_answers (hready q) (by omega) (by omega)
    rw [← hstep, hqa, hqb] at hanswer
    exact ⟨_, q, expandPseudo_swapep ha', rfl, hq, hanswer⟩

end Sys2Proof.Machine

/-! # Proofs of the family of packing (spec/41_packing.md)

## Fields that are joined, shifted out and masked -/

namespace Sys2Proof.Machine

open Sys2Proof.Safety

/-- A field above n bits that are joined to it. -/
theorem or_shiftLeft_eq_add {a n : Nat} (h : a < 2 ^ n) (b : Nat) : a ||| b <<< n = a + 2 ^ n * b := by
  rw [Nat.or_comm, ← Nat.shiftLeft_add_eq_or_of_lt h, Nat.shiftLeft_eq, Nat.add_comm, Nat.mul_comm]

theorem joinBytes_toNat {a b : Word} (ha : a.toNat < 256) (hb : b.toNat < 256) :
    (a ||| b <<< 8).toNat = a.toNat + 256 * b.toNat := by
  rw [BitVec.toNat_or, BitVec.toNat_shiftLeft, Nat.mod_eq_of_lt (by rw [Nat.shiftLeft_eq]; omega)]
  exact or_shiftLeft_eq_add (n := 8) ha _

/-- The three fields of a packed color (R102). -/
theorem joinColor_eq {b g : Nat} (hb : b < 32) (hg : g < 64) (r : Nat) :
    b ||| g <<< 5 ||| r <<< 11 = b + 32 * g + 2048 * r := by
  rw [or_shiftLeft_eq_add (n := 5) hb]
  exact or_shiftLeft_eq_add (n := 11) (by omega) r

/-- The field i of a word that is cut into fields of n bits. -/
theorem shiftMask_toNat (w : Word) {m : Word} {n : Nat} (hm : m.toNat = 2 ^ n - 1) (i : Nat) :
    (w >>> (n * i) &&& m).toNat = w.toNat / (2 ^ n) ^ i % 2 ^ n := by
  rw [BitVec.toNat_and, hm, Nat.and_two_pow_sub_one_eq_mod, BitVec.toNat_ushiftRight, Nat.shiftRight_eq_div_pow,
    pow_mul]

theorem laneR_toNat (w : Word) : (laneR w).toNat = w.toNat % 256 := by simp [laneR]
theorem laneG_toNat (w : Word) : (laneG w).toNat = w.toNat / 256 % 256 := by rw [laneG, extract_toNat]; rfl
theorem laneB_toNat (w : Word) : (laneB w).toNat = w.toNat / 65536 % 256 := by rw [laneB, extract_toNat]; rfl

/-! ## Endpoint words (R104 to R107) -/

/-- Settles O24. -/
theorem pkep32Result : Obligations.Pkep32Result := by
  intro s q rest hs
  split
  next hrange => exact (exec_faults_iff hs .pkep32 .valueRange).2 (if_pos hrange)
  next hrange =>
    obtain ⟨ha, hb⟩ := not_or.1 hrange
    exact exec_pkep32_answers hs (by omega) (by omega)

/-- Settles O25. -/
theorem unpkep32Result : Obligations.Unpkep32Result := by
  intro idx s q rest hs
  split
  next hidx => exact (exec_faults_iff hs (.unpkep32 idx) .badIndex).2 (if_pos hidx)
  next hidx => exact perform_scalar hs (checkMax_within hidx) (shiftMask_toNat q.a (n := 16) rfl _)

/-- Settles O26. -/
theorem pkep16Result : Obligations.Pkep16Result := by
  intro s q rest hs
  split
  next hrange => exact (exec_faults_iff hs .pkep16 .valueRange).2 (if_pos hrange)
  next hrange =>
    obtain ⟨ha, hb⟩ := not_or.1 hrange
    exact perform_scalar hs (by rw [checkMax_within ha, checkMax_within hb])
      (joinBytes_toNat (by omega) (by omega))

/-- Settles O27. -/
theorem unpkep16Result : Obligations.Unpkep16Result := by
  intro idx s q rest hs
  split
  next hidx => exact (exec_faults_iff hs (.unpkep16 idx) .badIndex).2 (if_pos hidx)
  next hidx =>
    refine perform_scalar hs (checkMax_within hidx) ((shiftMask_toNat _ (n := 8) rfl _).trans ?_)
    rw [BitVec.toNat_setWidth_of_le (by decide), low16_toNat]
    rfl

/-! ## Packed colors (R101, R102) -/

/-- UNPK565 with S = 0 in numbers (R101). -/
theorem unpackColor_raw_toNat (p : Half) (a : Byte) :
    (unpackColor false p a).toNat = rgbaNat (redOf p.toNat) (greenOf p.toNat) (blueOf p.toNat) a.toNat := by
  simp only [unpackColor, Bool.false_eq_true, if_false, rgba_toNat]
  rw [BitVec.toNat_setWidth_of_le (by decide), BitVec.toNat_setWidth_of_le (by decide),
    BitVec.toNat_setWidth_of_le (by decide), red5_toNat, green6_toNat, blue5_toNat]

/-- UNPK565 in numbers, both forms (R101). -/
theorem unpackColor_toNat (scaled : Bool) (p : Half) (a : Byte) :
    (unpackColor scaled p a).toNat =
      if scaled then wideColor p.toNat a.toNat
      else rgbaNat (redOf p.toNat) (greenOf p.toNat) (blueOf p.toNat) a.toNat := by
  cases scaled with
  | true => exact unpackColor_scaled_toNat p a
  | false => exact unpackColor_raw_toNat p a

theorem clampAlpha_toNat (n : Nat) : (BitVec.ofNat 8 (min n 255)).toNat = min n 255 :=
  Nat.mod_eq_of_lt (by omega)

/-- Settles O22. -/
theorem unpk565Result : Obligations.Unpk565Result := by
  intro scaled s q rest hs
  change AnswersScalar (execUnpk565 scaled s) s rest _
  refine perform_scalar hs (by rfl) ((unpackColor_toNat ..).trans ?_)
  rw [low16_toNat, clampAlpha_toNat]

theorem packChannel_scaled (c : Byte) (max : Nat) (bias : BitVec 8) :
    packChannel true c max bias = quantised c.toNat max bias.toNat := rfl

theorem packChannel_raw (c : Byte) (max : Nat) (bias : BitVec 8) : packChannel false c max bias = min c.toNat max := rfl

theorem packChannel_le (scaled : Bool) (c : Byte) (max : Nat) (bias : BitVec 8) :
    packChannel scaled c max bias ≤ max :=
  Nat.min_le_right ..

/-- PK565's word in numbers: no channel is above the width of its field (R102). -/
theorem packColor_toNat (scaled : Bool) (bias : BitVec 8) (w : Word) :
    (BitVec.ofNat 32 (packChannel scaled (laneB w) 31 bias ||| packChannel scaled (laneG w) 63 bias <<< 5
        ||| packChannel scaled (laneR w) 31 bias <<< 11)).toNat =
      packChannel scaled (laneB w) 31 bias + 32 * packChannel scaled (laneG w) 63 bias +
        2048 * packChannel scaled (laneR w) 31 bias := by
  have hb := packChannel_le scaled (laneB w) 31 bias
  have hg := packChannel_le scaled (laneG w) 63 bias
  have hr := packChannel_le scaled (laneR w) 31 bias
  rw [joinColor_eq (by omega) (by omega), BitVec.toNat_ofNat]
  omega

/-- Settles O23: each form of a channel is read off the lanes of A. -/
theorem pk565Result : Obligations.Pk565Result := by
  intro scaled bias s q rest hs r g b
  refine perform_scalar hs (by rfl) ((packColor_toNat scaled bias q.a).trans ?_)
  cases scaled with
  | true => simp only [packChannel_scaled, laneR_toNat, laneG_toNat, laneB_toNat, if_true, b, g, r]
  | false => simp only [packChannel_raw, laneR_toNat, laneG_toNat, laneB_toNat, Bool.false_eq_true, if_false, b, g, r]

/-! ## There and back through the operations (R103) -/

theorem quantised_le (c max bias : Nat) : quantised c max bias ≤ max := Nat.min_le_right ..

/-- The packed color of an endpoint's channels after they were unpacked. -/
def repacked (bias p : Nat) : Nat :=
  quantised (wide5 (blueOf p)) 31 bias + 32 * quantised (wide6 (greenOf p)) 63 bias +
    2048 * quantised (wide5 (redOf p)) 31 bias

/-- The three color channels of an RGBA word. -/
theorem channels_rgbaNat {r g b : Nat} (hr : r < 256) (hg : g < 256) (hb : b < 256) (a : Nat) :
    rgbaNat r g b a % 256 = r ∧ rgbaNat r g b a / 256 % 256 = g ∧ rgbaNat r g b a / 65536 % 256 = b := by
  unfold rgbaNat
  omega

theorem channels_wideColor (p a : Nat) :
    wideColor p a % 256 = wide5 (redOf p) ∧ wideColor p a / 256 % 256 = wide6 (greenOf p) ∧
      wideColor p a / 65536 % 256 = wide5 (blueOf p) :=
  channels_rgbaNat (by unfold wide5 redOf; omega) (by unfold wide6 greenOf; omega) (by unfold wide5 blueOf; omega) a

/-- The three fields of a packed color, which has 16 bits. -/
theorem fields_packed {r g b : Nat} (hr : r ≤ 31) (hg : g ≤ 63) (hb : b ≤ 31) :
    redOf ((b + 32 * g + 2048 * r) % 65536) = r ∧ greenOf ((b + 32 * g + 2048 * r) % 65536) = g ∧
      blueOf ((b + 32 * g + 2048 * r) % 65536) = b := by
  unfold redOf greenOf blueOf
  omega

theorem response_of_answersScalar {o : Host.Outcome State Fault Refusal} {s : State} {rest : List HostMove} {n : Nat}
    (h : AnswersScalar o s rest n) : ∃ resp, answered o = some resp ∧ resp.r.toNat = n := by
  obtain ⟨r, hr, ho⟩ := h
  exact ⟨_, congrArg answered ho, hr⟩

/-- Unpacking an endpoint and packing the result. -/
theorem pack_of_unpacked (bias : BitVec 8) (s : State) (q : Request) (rest : List HostMove) (hs : Ready s q rest) :
    ∃ resp, answered (exec (.unpk565 true) s) = some resp ∧
      ∀ s' q' rest', Ready s' q' rest' → q'.a = resp.r →
        AnswersScalar (exec (.pk565 true bias) s') s' rest' (repacked bias.toNat (q.a.toNat % 65536)) := by
  obtain ⟨resp, hresp, hr⟩ := response_of_answersScalar (unpk565Result true s q rest hs)
  refine ⟨resp, hresp, fun s' q' rest' hs' ha => ?_⟩
  have hpack := pk565Result true bias s' q' rest' hs'
  obtain ⟨hred, hgreen, hblue⟩ := channels_wideColor (q.a.toNat % 65536) (min q.b.toNat 255)
  simpa only [ha, hr, if_true, hred, hgreen, hblue, repacked] using hpack

/-- Packing channels and unpacking the result. -/
theorem unpack_of_packed (bias : BitVec 8) (s : State) (q : Request) (rest : List HostMove) (hs : Ready s q rest) :
    ∃ resp, answered (exec (.pk565 true bias) s) = some resp ∧
      ∀ s' q' rest', Ready s' q' rest' → q'.a = resp.r →
        AnswersScalar (exec (.unpk565 true) s') s' rest'
          (rgbaNat (wide5 (quantised (q.a.toNat % 256) 31 bias.toNat))
            (wide6 (quantised (q.a.toNat / 256 % 256) 63 bias.toNat))
            (wide5 (quantised (q.a.toNat / 65536 % 256) 31 bias.toNat)) (min q'.b.toNat 255)) := by
  obtain ⟨resp, hresp, hr⟩ := response_of_answersScalar (pk565Result true bias s q rest hs)
  refine ⟨resp, hresp, fun s' q' rest' hs' ha => ?_⟩
  have hunpack := unpk565Result true s' q' rest' hs'
  obtain ⟨hred, hgreen, hblue⟩ := fields_packed (quantised_le (q.a.toNat % 256) 31 bias.toNat)
    (quantised_le (q.a.toNat / 256 % 256) 63 bias.toNat) (quantised_le (q.a.toNat / 65536 % 256) 31 bias.toNat)
  simpa only [ha, hr, if_true, wideColor, hred, hgreen, hblue] using hunpack

/-! ## When an endpoint comes back (R103) -/

/-- An endpoint comes back exactly if each of its channels does. -/
theorem repacked_eq_self_iff {p : Nat} (hp : p < 65536) (bias : Nat) :
    repacked bias p = p ↔
      quantised (wide5 (blueOf p)) 31 bias = blueOf p ∧ quantised (wide6 (greenOf p)) 63 bias = greenOf p ∧
        quantised (wide5 (redOf p)) 31 bias = redOf p := by
  have hr := quantised_le (wide5 (redOf p)) 31 bias
  have hg := quantised_le (wide6 (greenOf p)) 63 bias
  have hb := quantised_le (wide5 (blueOf p)) 31 bias
  unfold repacked
  generalize quantised (wide5 (redOf p)) 31 bias = r at *
  generalize quantised (wide6 (greenOf p)) 63 bias = g at *
  generalize quantised (wide5 (blueOf p)) 31 bias = b at *
  unfold redOf greenOf blueOf
  omega

theorem quantised_wide5_nearest : ∀ c < 32, ∀ bias ∈ [127, 128], quantised (wide5 c) 31 bias = c := by decide

theorem quantised_wide6_nearest : ∀ c < 64, ∀ bias ∈ [127, 128], quantised (wide6 c) 63 bias = c := by decide

theorem repacked_nearest {p bias : Nat} (hp : p < 65536) (hbias : bias ∈ [127, 128]) : repacked bias p = p :=
  (repacked_eq_self_iff hp bias).2
    ⟨quantised_wide5_nearest _ (Nat.mod_lt _ (by decide)) _ hbias,
      quantised_wide6_nearest _ (Nat.mod_lt _ (by decide)) _ hbias,
      quantised_wide5_nearest _ (Nat.mod_lt _ (by decide)) _ hbias⟩

/-- Counting the numbers whose remainder and quotient by m have a property each. -/
theorem count_mod_and_div (P Q : Nat → Prop) [DecidablePred P] [DecidablePred Q] (m n : Nat) :
    Nat.count (fun k => P (k % m) ∧ Q (k / m)) (m * n) = Nat.count P m * Nat.count Q n := by
  induction n with
  | zero => simp
  | succ n ih =>
    have hlast : Nat.count (fun k => P ((m * n + k) % m) ∧ Q ((m * n + k) / m)) m =
        Nat.count (fun k => P k ∧ Q n) m := by
      refine List.countP_congr fun k hk => ?_
      have hk : k < m := List.mem_range.1 hk
      have hdiv : (m * n + k) / m = n := by
        rw [Nat.mul_add_div (by omega), Nat.div_eq_of_lt hk, Nat.add_zero]
      simp only [Nat.mul_add_mod, Nat.mod_eq_of_lt hk, hdiv]
    rw [Nat.mul_succ, Nat.count_add, ih, hlast, Nat.count_succ]
    by_cases hn : Q n
    · simp [hn, Nat.mul_add]
    · simp [hn, Nat.count_false]

theorem length_filter_not_eq_sub_count (P : Nat → Prop) [DecidablePred P] (n : Nat) :
    ((List.range n).filter fun k => ¬P k).length = n - Nat.count P n := by
  have hall := List.length_eq_countP_add_countP (fun k => decide (P k)) (l := List.range n)
  simp only [decide_eq_true_eq, List.length_range] at hall
  rw [← List.countP_eq_length_filter, Nat.count]
  omega

/-- The channel values that come back with bias 0 are 17 of 32 and 34 of 64. -/
theorem count_channels_bias_zero :
    Nat.count (fun c => quantised (wide5 c) 31 0 = c) 32 = 17 ∧
      Nat.count (fun c => quantised (wide6 c) 63 0 = c) 64 = 34 := by
  decide

/-- The endpoints that come back with bias 0, by their fields blue, green and red from the lowest bit on. -/
theorem count_repacked_bias_zero : Nat.count (fun p => repacked 0 p = p) 65536 = 17 * (34 * 17) := by
  obtain ⟨h5, h6⟩ := count_channels_bias_zero
  have hupper := count_mod_and_div (fun c => quantised (wide6 c) 63 0 = c)
    (fun c => quantised (wide5 c) 31 0 = c) 64 32
  have hcount := count_mod_and_div (fun c => quantised (wide5 c) 31 0 = c)
    (fun k => quantised (wide6 (k % 64)) 63 0 = k % 64 ∧ quantised (wide5 (k / 64)) 31 0 = k / 64) 32 (64 * 32)
  rw [hupper, h5, h6] at hcount
  rw [← hcount]
  refine List.countP_congr fun p hp => ?_
  have hp : p < 65536 := List.mem_range.1 hp
  have hred : p / 32 / 64 = redOf p := by
    unfold redOf
    omega
  simp only [decide_eq_true_eq, hred, repacked_eq_self_iff hp, blueOf, greenOf]

theorem count_repacked_bias_zero_fails :
    ((List.range 65536).filter fun p => repacked 0 p ≠ p).length = 55710 := by
  rw [length_filter_not_eq_sub_count, count_repacked_bias_zero]

/-! ## How far a channel comes back from where it was (R103) -/

/-- How far a channel is off after packing and unpacking. -/
def channelError (wide : Nat → Nat) (max bias c : Nat) : Nat :=
  (wide (quantised c max bias) - c) + (c - wide (quantised c max bias))

theorem channelError_wide5 {c : Nat} (hc : c < 256) :
    channelError wide5 31 128 c ≤ 4 ∧ channelError wide5 31 0 c ≤ 8 := by
  unfold channelError wide5 quantised
  omega

theorem channelError_wide6 {c : Nat} (hc : c < 256) :
    channelError wide6 63 128 c ≤ 2 ∧ channelError wide6 63 0 c ≤ 4 := by
  unfold channelError wide6 quantised
  omega

/-- Settles O28: the operations meet at the numbers, where each of the three channels goes its own way. -/
theorem packUnpackRoundTrip : Obligations.PackUnpackRoundTrip := by
  refine ⟨pack_of_unpacked, unpack_of_packed,
    fun p hp => ⟨repacked_nearest hp (by decide), repacked_nearest hp (by decide)⟩,
    count_repacked_bias_zero_fails, fun c hc => ?_, ⟨4, by decide⟩, ⟨2, by decide⟩, ⟨8, by decide⟩, ⟨4, by decide⟩⟩
  obtain ⟨h5, h5'⟩ := channelError_wide5 hc
  obtain ⟨h6, h6'⟩ := channelError_wide6 hc
  exact ⟨h5, h6, h5', h6'⟩

end Sys2Proof.Machine

/-! # Proofs of the family of the ramps (spec/42_ramps.md)

## Counts and padded vectors -/

namespace Sys2Proof.Machine

open Sys2Proof.Safety

theorem colorCount_toNat (e0 e1 : Half) : (colorCount e0 e1).toNat = if e1.toNat < e0.toNat then 4 else 3 := by
  by_cases h : e1.toNat < e0.toNat <;> simp [colorCount, fourColor, h]

theorem alphaCount_toNat (l h : Byte) : (alphaCount l h).toNat = if h.toNat < l.toNat then 8 else 6 := by
  by_cases hm : h.toNat < l.toNat <;> simp [alphaCount, eightValue, hm]

/-- An answer in CNT and V whose first n entries are the words of p (spec/10_state.md R23 for the others). -/
theorem perform_padded {s : State} {q : Request} {rest : List HostMove} {op : Request → Except FaultCode Response}
    {cnt : BitVec 4} {α : Type} {n m : Nat} {word : α → Word} {p : Vector α n} {f : Nat → Nat}
    (h : Ready s q rest) (ho : op q = .ok (.vector cnt (padVector word p))) (hm : cnt.toNat = m)
    (hin : ∀ (i : Nat) (hi : i < n), (word p[i]).toNat = f i) (hout : ∀ i, ¬i < n → f i = 0) :
    AnswersVector (perform s op) s rest m f := by
  refine perform_vector h ho hm fun i hi => ?_
  rw [padVector_getElem word p i hi]
  split
  next hn => exact hin i hn
  next hn => exact (hout i hn).symm

theorem response_of_answersVector {o : Host.Outcome State Fault Refusal} {s : State} {rest : List HostMove} {n : Nat}
    {f : Nat → Nat} (h : AnswersVector o s rest n f) :
    ∃ resp, answered o = some resp ∧ ∀ (i : Nat) (hi : i < 16), resp.v[i].toNat = f i := by
  obtain ⟨cnt, v, -, hv, ho⟩ := h
  exact ⟨_, congrArg answered ho, hv⟩

/-! ## The operations (R124, R126, R129, R130) -/

theorem roundAddend_eq_addend (rnd : Bool) : roundAddend rnd = addend rnd := rfl

theorem addend_le (rnd : Bool) : addend rnd ≤ 1 := roundAddend_le rnd

/-- Settles O29. -/
theorem pal1Result : Obligations.Pal1Result := by
  intro rnd s q rest hs e0 e1
  change AnswersVector (execPal1 rnd s) s rest _ _
  refine perform_padded hs (by rfl) ?_ (fun i hi => ?_) fun i hi => if_neg hi
  · rw [colorCount_toNat, low16_toNat, low16_toNat]
  · rw [if_pos hi, id, palette_toNat _ _ _ (roundAddend_le rnd) i hi, low16_toNat, low16_toNat, roundAddend_eq_addend]

theorem low16_eq_ofNat (w : Word) : low16 w = BitVec.ofNat 16 w.toNat :=
  BitVec.eq_of_toNat_eq (low16_toNat w)

/-- Settles O31: nothing is used of NV_PALETTE but that PALNV applies it to the two endpoints. -/
theorem palnvResult : Obligations.PalnvResult := by
  intro s q rest hs
  rw [← low16_eq_ofNat, ← low16_eq_ofNat]
  intro p
  change AnswersVector (execPalnv s) s rest _ _
  refine perform_padded hs (by rfl) ?_ (fun i hi => ?_) fun i hi => dif_neg hi
  · change (nvCount p.count).toNat = _
    cases p.count <;> rfl
  · rw [dif_pos hi, id]

/-- The alpha ramp in V, each value t as a word of value g t. -/
theorem perform_alphaRamp {s : State} {q : Request} {rest : List HostMove} (word : Byte → Word) (g : Nat → Nat)
    (h : Ready s q rest) (hword : ∀ t, (word t).toNat = g t.toNat) :
    AnswersVector
      (perform s fun q =>
        .ok (.vector (alphaCount (low8 q.a) (low8 q.b)) (padVector word (alphaRamp (low8 q.a) (low8 q.b)))))
      s rest (if q.b.toNat % 256 < q.a.toNat % 256 then 8 else 6)
      (fun i => if i < 8 then g (rampEntry (q.a.toNat % 256) (q.b.toNat % 256) i) else 0) := by
  refine perform_padded h rfl ?_ (fun i hi => ?_) fun i hi => if_neg hi
  · rw [alphaCount_toNat, low8_toNat, low8_toNat]
  · rw [if_pos hi, hword, alphaRamp_toNat, low8_toNat, low8_toNat]

/-- Settles O32. -/
theorem arampResult : Obligations.ArampResult :=
  fun _ _ _ hs => perform_alphaRamp _ id hs fun _ => BitVec.toNat_setWidth_of_le (by decide)

/-- Settles O33. -/
theorem arampqResult : Obligations.ArampqResult :=
  fun _ _ _ hs => perform_alphaRamp _ (16777216 * ·) hs fun t => by simp [rgba_toNat, rgbaNat]

/-! ## Invariants of the palette (R125) -/

theorem alpha_rgbaNat {r g b : Nat} (hr : r < 256) (hg : g < 256) (hb : b < 256) (a : Nat) :
    rgbaNat r g b a / 16777216 = a := by
  unfold rgbaNat
  omega

theorem wide5_redOf_lt (p : Nat) : wide5 (redOf p) < 256 := by unfold wide5 redOf; omega
theorem wide6_greenOf_lt (p : Nat) : wide6 (greenOf p) < 256 := by unfold wide6 greenOf; omega
theorem wide5_blueOf_lt (p : Nat) : wide5 (blueOf p) < 256 := by unfold wide5 blueOf; omega

theorem alpha_wideColor (p a : Nat) : wideColor p a / 16777216 = a :=
  alpha_rgbaNat (wide5_redOf_lt p) (wide6_greenOf_lt p) (wide5_blueOf_lt p) a

/-- A mix that stays in a byte leaves alpha 255 alone. -/
theorem alpha_mixColors {f : Nat → Nat → Nat} (hf : ∀ c0 < 256, ∀ c1 < 256, f c0 c1 < 256) (e0 e1 : Nat) :
    mixColors f e0 e1 / 16777216 = 255 :=
  alpha_rgbaNat (hf _ (wide5_redOf_lt e0) _ (wide5_redOf_lt e1)) (hf _ (wide6_greenOf_lt e0) _ (wide6_greenOf_lt e1))
    (hf _ (wide5_blueOf_lt e0) _ (wide5_blueOf_lt e1)) 255

@[simp] theorem paletteEntry_zero (e0 e1 k : Nat) : paletteEntry e0 e1 k 0 = wideColor e0 255 := rfl
@[simp] theorem paletteEntry_one (e0 e1 k : Nat) : paletteEntry e0 e1 k 1 = wideColor e1 255 := rfl

theorem paletteEntry_sentinel {e0 e1 : Nat} (h : ¬e1 < e0) (k : Nat) : paletteEntry e0 e1 k 3 = 0 := by
  simp [paletteEntry, h]

/-- Every entry but the sentinel has alpha 255. -/
theorem alpha_paletteEntry (e0 e1 : Nat) {k i : Nat} (hk : k ≤ 1) (hi : i < 3 ∨ e1 < e0) :
    paletteEntry e0 e1 k i / 16777216 = 255 := by
  unfold paletteEntry
  split_ifs
  · exact alpha_wideColor e0 255
  · exact alpha_wideColor e1 255
  · exact alpha_mixColors (by omega) e0 e1
  · exact alpha_mixColors (by omega) e0 e1
  · exact alpha_mixColors (by omega) e0 e1
  · omega

/-- The rounding addend is in the mixed entries alone: V[2] and, in the 4-color mode, V[3]. -/
theorem mixed_of_paletteEntry_ne {e0 e1 k k' i : Nat} (hi : i < 4)
    (h : paletteEntry e0 e1 k i ≠ paletteEntry e0 e1 k' i) : i = 2 ∨ i = 3 ∧ e1 < e0 := by
  by_contra hmixed
  apply h
  unfold paletteEntry
  split_ifs
  · rfl
  · rfl
  · omega
  · omega
  · omega
  · rfl

/-- What R125 says of one palette, given the unpacked endpoints. -/
theorem palette_invariants {e0 e1 k : Nat} (hk : k ≤ 1) {v : Vector Word 16} {u0 u1 : Word}
    (hv : ∀ (i : Nat) (hi : i < 16), v[i].toNat = if i < 4 then paletteEntry e0 e1 k i else 0)
    (hu0 : u0.toNat = wideColor e0 255) (hu1 : u1.toNat = wideColor e1 255) :
    v[0] = u0 ∧ v[1] = u1 ∧ (∀ (i : Nat) (hi : i < 3), v[i].toNat / 16777216 = 255) ∧
      if e1 < e0 then v[3].toNat / 16777216 = 255 else v[3] = 0 := by
  refine ⟨BitVec.eq_of_toNat_eq (by simp [hv, hu0]), BitVec.eq_of_toNat_eq (by simp [hv, hu1]), fun i hi => ?_, ?_⟩
  · rw [hv i, if_pos (by omega), alpha_paletteEntry e0 e1 hk (.inl hi)]
  · split
    next hmode => rw [hv 3, if_pos (by decide), alpha_paletteEntry e0 e1 hk (.inr hmode)]
    next hmode => exact BitVec.eq_of_toNat_eq (by simp [hv, paletteEntry_sentinel hmode])

/-- UNPK565 with S = 1 and alpha 255 (R101). -/
theorem response_of_unpk565_opaque {s : State} {q : Request} {rest : List HostMove} (hs : Ready s q rest)
    (hb : q.b = 255) :
    ∃ resp, answered (exec (.unpk565 true) s) = some resp ∧ resp.r.toNat = wideColor (q.a.toNat % 65536) 255 := by
  obtain ⟨resp, hresp, hr⟩ := response_of_answersScalar (unpk565Result true s q rest hs)
  exact ⟨resp, hresp, by simpa [hb] using hr⟩

/-- Settles O30. -/
theorem paletteInvariants : Obligations.PaletteInvariants := by
  intro s q rest s0 q0 rest0 s1 q1 rest1 hs hs0 hs1 ha0 ha1 hb0 hb1
  obtain ⟨trunc, htrunc, hvt⟩ := response_of_answersVector (pal1Result false s q rest hs)
  obtain ⟨round, hround, hvr⟩ := response_of_answersVector (pal1Result true s q rest hs)
  obtain ⟨u0, hu0, hr0⟩ := response_of_unpk565_opaque hs0 hb0
  obtain ⟨u1, hu1, hr1⟩ := response_of_unpk565_opaque hs1 hb1
  rw [ha0] at hr0
  rw [ha1] at hr1
  refine ⟨trunc, round, u0, u1, htrunc, hround, hu0, hu1, ?_, fun i hi hne => ?_⟩
  · simp only [List.forall_mem_cons, List.not_mem_nil, false_implies, implies_true, and_true]
    exact ⟨palette_invariants (addend_le false) hvt hr0 hr1, palette_invariants (addend_le true) hvr hr0 hr1⟩
  · rw [ne_eq, ← BitVec.toNat_inj, hvt i hi, hvr i hi] at hne
    split at hne
    next h4 => exact mixed_of_paletteEntry_ne h4 hne
    next h4 => exact absurd rfl hne

/-! ## Invariants of the alpha ramp (R131) -/

@[simp] theorem rampEntry_zero (l h : Nat) : rampEntry l h 0 = l := by simp [rampEntry, ramp8, ramp6]
@[simp] theorem rampEntry_one (l h : Nat) : rampEntry l h 1 = h := by simp [rampEntry, ramp8, ramp6]

/-- The value j of the 8-value ramp in linear order, with weight 7 - j for l and j for h (spec/10_state.md R28). -/
def linearAlpha (l h j : Nat) : Nat := ((7 - j) * l + j * h) / 7

/-- The selectors 0, 2, 3, 4, 5, 6, 7, 1 are the linear order of the 8-value ramp. -/
theorem map_ramp8_linear (l h : Nat) :
    [0, 2, 3, 4, 5, 6, 7, 1].map (ramp8 l h) = (List.range 8).map (linearAlpha l h) := by
  simp [List.range_succ, ramp8, linearAlpha]

/-- Each step moves weight from the larger endpoint to the smaller one. -/
theorem linearAlpha_le {l h : Nat} (hlh : h ≤ l) {j k : Nat} (hjk : j ≤ k) (hk : k ≤ 7) :
    linearAlpha l h k ≤ linearAlpha l h j := by
  obtain ⟨d, rfl⟩ := Nat.exists_eq_add_of_le hjk
  have hweight : 7 - j = 7 - (j + d) + d := by omega
  apply Nat.div_le_div_right
  calc (7 - (j + d)) * l + (j + d) * h
      = (7 - (j + d)) * l + j * h + d * h := by ring
    _ ≤ (7 - (j + d)) * l + j * h + d * l := Nat.add_le_add_left (Nat.mul_le_mul_left d hlh) _
    _ = (7 - j) * l + j * h := by rw [hweight]; ring

theorem linearAlpha_pairwise {l h : Nat} (hlh : h ≤ l) :
    ((List.range 8).map (linearAlpha l h)).Pairwise (· ≥ ·) := by
  rw [List.pairwise_map]
  refine List.pairwise_lt_range.imp_of_mem fun _ hk hjk => ?_
  exact linearAlpha_le hlh hjk.le (Nat.le_of_lt_succ (List.mem_range.1 hk))

/-- Settles O34: in the 8-value mode ARAMP's entries are the linear ramp in another order. -/
theorem rampInvariants : Obligations.RampInvariants := by
  intro s q rest hs
  obtain ⟨p, hp, hv⟩ := response_of_answersVector (arampResult s q rest hs)
  refine ⟨p, hp, (hv 0 (by decide)).trans (rampEntry_zero ..), (hv 1 (by decide)).trans (rampEntry_one ..),
    fun hmode => ?_⟩
  have hentries : ([0, 2, 3, 4, 5, 6, 7, 1].map fun i => (p.v.toList.getD i 0).toNat) =
      [0, 2, 3, 4, 5, 6, 7, 1].map (ramp8 (q.a.toNat % 256) (q.b.toNat % 256)) := by
    refine List.map_congr_left fun i hi => ?_
    have h8 : i < 8 := by
      revert i
      decide
    rw [List.getD_eq_getElem _ _ (by simp; omega), Vector.getElem_toList, hv i (by omega), if_pos h8, rampEntry,
      if_pos hmode]
  rw [hentries, map_ramp8_linear]
  exact linearAlpha_pairwise hmode.le

end Sys2Proof.Machine

/-! # Proofs of the family of the remap tables (spec/43_remap.md)

## One remap operation (R140) -/

namespace Sys2Proof.Machine

open Sys2Proof.Safety

theorem perform_remap_above {s : State} {q : Request} {rest : List HostMove} {n w : Nat} {table : Vector (BitVec w) n}
    {idx : BitVec 8} (hs : Ready s q rest) (hi : n ≤ idx.toNat) :
    Faults (perform s fun _ => remap table idx) s rest q .badIndex :=
  perform_error hs (remap_above hi)

/-- What R140 says of one operation. An entry is less than n because it has only as many bits (R27). -/
theorem perform_remap_reads_table {s : State} {q : Request} {rest : List HostMove} {n w : Nat}
    (table : Vector (BitVec w) n) {idx : BitVec 8} (hs : Ready s q rest) (hn : 2 ^ w = n) (hw : w ≤ 32) :
    (∀ _ : idx.toNat < n, table[idx.toNat].toNat < n ∧
      AnswersScalar (perform s fun _ => remap table idx) s rest table[idx.toNat].toNat) ∧
    (n ≤ idx.toNat → Faults (perform s fun _ => remap table idx) s rest q .badIndex) :=
  ⟨fun hi => ⟨hn ▸ table[idx.toNat].isLt, perform_remap hs hi hw⟩, perform_remap_above hs⟩

/-- Settles O35. -/
theorem remapReadsItsTable : Obligations.RemapReadsItsTable := by
  intro idx s q rest hs
  have h4 (table : Vector (BitVec 2) 4) := perform_remap_reads_table table (idx := idx) hs rfl (by decide)
  have h8 (table : Vector (BitVec 3) 8) := perform_remap_reads_table table (idx := idx) hs rfl (by decide)
  simp only [List.forall_mem_cons, List.not_mem_nil, false_implies, implies_true, and_true]
  exact ⟨⟨h4 _, h4 _⟩, h8 _, h8 _, h8 _, h8 _⟩

/-! ## The constant tables (R141 to R147) -/

section ConstantTables

variable {s : State} {q : Request} {rest : List HostMove} {n w : Nat}

theorem perform_remap_constant {idx : BitVec 8} (hs : Ready s q rest) (hrom : s.rom = romConstants)
    (table : RomTables → Vector (BitVec w) n) (hi : idx.toNat < n) (hw : w ≤ 32) :
    AnswersScalar (perform s fun _ => remap (table s.rom) idx) s rest (table romConstants)[idx.toNat].toNat :=
  hrom ▸ perform_remap hs hi hw

/-- A table by the numbers of its entries, as R141 to R146 write it. -/
theorem perform_remap_values {idx : BitVec 8} {values : List Nat} (hs : Ready s q rest) (hrom : s.rom = romConstants)
    (table : RomTables → Vector (BitVec w) n) (hw : w ≤ 32)
    (hvalues : (table romConstants).toList.map BitVec.toNat = values) :
    (∀ h : idx.toNat < values.length,
      AnswersScalar (perform s fun _ => remap (table s.rom) idx) s rest values[idx.toNat]) ∧
    (values.length ≤ idx.toNat → Faults (perform s fun _ => remap (table s.rom) idx) s rest q .badIndex) := by
  subst hvalues
  simp only [List.length_map, Vector.length_toList, List.getElem_map, Vector.getElem_toList]
  exact ⟨fun hi => perform_remap_constant hs hrom table hi hw, perform_remap_above hs⟩

/-- Remapping by t and then by u leads back to where it began. -/
def Undoes (u t : Vector (BitVec w) n) : Prop :=
  ∀ (i : Nat) (_ : i < n), ∃ _ : t[i].toNat < n, u[t[i].toNat].toNat = i

theorem perform_remap_undone {t u : RomTables → Vector (BitVec w) n} (hs : Ready s q rest)
    (hrom : s.rom = romConstants) (hw : w ≤ 8) (hundo : Undoes (u romConstants) (t romConstants)) (i : BitVec 8)
    (hi : i.toNat < n) :
    ∃ j : BitVec 8, AnswersScalar (perform s fun _ => remap (t s.rom) i) s rest j.toNat ∧
      AnswersScalar (perform s fun _ => remap (u s.rom) j) s rest i.toNat := by
  obtain ⟨hlt, hback⟩ := hundo i.toNat hi
  refine ⟨(t romConstants)[i.toNat].setWidth 8, ?_⟩
  have hj : ((t romConstants)[i.toNat].setWidth 8).toNat = (t romConstants)[i.toNat].toNat :=
    BitVec.toNat_setWidth_of_le hw
  have hthere := perform_remap_constant hs hrom t hi (by omega)
  have hagain := perform_remap_constant hs hrom u (hj.symm ▸ hlt) (by omega)
  simp only [hj, hback] at hagain ⊢
  exact ⟨hthere, hagain⟩

end ConstantTables

/-- Settles O36. -/
theorem remapAnswers : Obligations.RemapAnswers := by
  intro idx s q rest hs hrom
  simp only [List.forall_mem_cons, List.not_mem_nil, false_implies, implies_true, and_true]
  exact
    ⟨perform_remap_values hs hrom RomTables.d1FromLinear (by decide) rfl,
      perform_remap_values hs hrom RomTables.d1ToLinear (by decide) rfl,
      perform_remap_values hs hrom RomTables.d5FromLinear (by decide) rfl,
      perform_remap_values hs hrom RomTables.d5ToLinear (by decide) rfl,
      perform_remap_values hs hrom RomTables.inv6 (by decide) rfl,
      perform_remap_values hs hrom RomTables.inv8 (by decide) rfl⟩

theorem d1Tables_undo : Undoes romConstants.d1ToLinear romConstants.d1FromLinear ∧
    Undoes romConstants.d1FromLinear romConstants.d1ToLinear := by
  unfold Undoes
  decide

theorem d5Tables_undo : Undoes romConstants.d5ToLinear romConstants.d5FromLinear ∧
    Undoes romConstants.d5FromLinear romConstants.d5ToLinear := by
  unfold Undoes
  decide

theorem invTables_undo : Undoes romConstants.inv6 romConstants.inv6 ∧ Undoes romConstants.inv8 romConstants.inv8 := by
  unfold Undoes
  decide

/-- Settles O37: the laws are those of the constant tables. -/
theorem tableLaws : Obligations.TableLaws := by
  intro s q rest hs hrom
  obtain ⟨hd1, hd1'⟩ := d1Tables_undo
  obtain ⟨hd5, hd5'⟩ := d5Tables_undo
  obtain ⟨hinv6, hinv8⟩ := invTables_undo
  have undone4 {t u : RomTables → Vector (BitVec 2) 4} := perform_remap_undone (t := t) (u := u) hs hrom (by decide)
  have undone8 {t u : RomTables → Vector (BitVec 3) 8} := perform_remap_undone (t := t) (u := u) hs hrom (by decide)
  simp only [List.forall_mem_cons, List.not_mem_nil, false_implies, implies_true, and_true]
  refine ⟨⟨undone4 hd1, undone4 hd1'⟩, ⟨undone8 hd5, undone8 hd5', undone8 hinv6, undone8 hinv8⟩, ?_, ?_⟩
  · exact ⟨perform_remap_constant (idx := 0) hs hrom RomTables.inv6 (by decide) (by decide),
      perform_remap_constant (idx := 1) hs hrom RomTables.inv6 (by decide) (by decide)⟩
  · exact ⟨perform_remap_constant (idx := 0) hs hrom RomTables.inv8 (by decide) (by decide),
      perform_remap_constant (idx := 1) hs hrom RomTables.inv8 (by decide) (by decide)⟩

end Sys2Proof.Machine

/-! # Proofs of the family of the explicit alpha of DXT3 (spec/44_dxt3_alpha.md)

## A nibble that is read, written and quantised -/

namespace Sys2Proof.Machine

open Sys2Proof.Safety

/-- R in numbers, both forms (R160, R161). -/
theorem answeredNibble_toNat (scaled : Bool) (v : BitVec 4) :
    (if scaled then (expandNibble v).setWidth 32 else v.setWidth 32 : Word).toNat =
      if scaled then 17 * v.toNat else v.toNat := by
  cases scaled with
  | true => exact (BitVec.toNat_setWidth_of_le (by decide)).trans (expandNibble_toNat v)
  | false => exact BitVec.toNat_setWidth_of_le (by decide)

/-- A value within the range of R162 is stored in four bits without loss. -/
theorem quantiseAlpha_toNat {scaled : Bool} {a : Word} (h : ¬(if scaled then 255 else 15) < a.toNat) :
    (quantiseAlpha scaled a).toNat = if scaled then (a.toNat * 15 + 128) / 255 else a.toNat := by
  refine Nat.mod_eq_of_lt ?_
  cases scaled with
  | true => simp only [if_true] at h ⊢; omega
  | false => simp only [Bool.false_eq_true, if_false] at h ⊢; omega

/-- Every nibble after one is written, in numbers. -/
theorem alphaNibble_writeNibble (b : Block) (x y : BitVec 2) (v : BitVec 4) {x' y' : Nat} (hx : x' < 4) (hy : y' < 4) :
    alphaNibble (writeNibble b x y v) x' y' =
      if x' = x.toNat ∧ y' = y.toNat then v.toNat else alphaNibble b x' y' := by
  obtain ⟨x', rfl⟩ : ∃ w : BitVec 2, w.toNat = x' := ⟨BitVec.ofNat 2 x', Nat.mod_eq_of_lt hx⟩
  obtain ⟨y', rfl⟩ : ∃ w : BitVec 2, w.toNat = y' := ⟨BitVec.ofNat 2 y', Nat.mod_eq_of_lt hy⟩
  simp only [← nibble_toNat, nibble_writeNibble, BitVec.toNat_inj, apply_ite BitVec.toNat]

/-- The nibbles fill bytes 0..7 (spec/20_memory.md R46), so that no write of one reaches the color block. -/
theorem blockByte_writeNibble (b : Block) (x y : BitVec 2) (v : BitVec 4) {j : Nat} (hj : 8 ≤ j) :
    blockByte (writeNibble b x y v) j = blockByte b j := by
  have hx := x.isLt
  have hy := y.isLt
  rw [← blkByte_toNat, ← blkByte_toNat, writeNibble_eq]
  congr 1
  apply extract_writeField_apart
  omega

/-- A value is at most 8 away from the multiple of 17 to which it is quantised and expanded (R163). -/
theorem expanded_quantised_within (a : Nat) :
    17 * ((a * 15 + 128) / 255) ≤ a + 8 ∧ a ≤ 17 * ((a * 15 + 128) / 255) + 8 := by
  omega

/-! ## The operations (R161, R162) -/

/-- Settles O39. -/
theorem geta3Result : Obligations.Geta3Result := by
  intro scaled x y s q rest hs
  change AnswersScalar (execGeta3 scaled x y s) s rest _
  rw [← nibble_toNat]
  exact perform_scalar hs (by rfl) (answeredNibble_toNat scaled _)

/-- Settles O40. -/
theorem seta3Result : Obligations.Seta3Result := by
  intro scaled x y s q rest hs
  by_cases hrange : (if scaled then 255 else 15) < q.a.toNat
  · rw [if_pos hrange]
    exact (exec_faults_iff hs (.seta3 scaled x y) .valueRange).2 (if_pos hrange)
  · rw [if_neg hrange]
    refine perform_block hs (checkMax_within hrange) ⟨fun x' hx y' hy => ?_, fun _ => blockByte_writeNibble _ x y _⟩
    rw [alphaNibble_writeNibble _ x y _ hx hy, quantiseAlpha_toNat hrange]

/-! ## Reading what was written (R163) -/

theorem response_of_answersBlock {o : Host.Outcome State Fault Refusal} {s : State} {rest : List HostMove}
    {P : Block → Prop} (h : AnswersBlock o s rest P) : ∃ resp, answered o = some resp ∧ P resp.bo := by
  obtain ⟨bo, hP, ho⟩ := h
  exact ⟨_, congrArg answered ho, hP⟩

/-- Settles O41: GETA3 reads the nibbles of BO, of which SETA3 says what each one is. -/
theorem nibbleIsolation : Obligations.NibbleIsolation := by
  intro scaled x y s q rest hs hrange
  have hset := seta3Result scaled x y s q rest hs
  rw [if_neg (Nat.not_lt.2 hrange)] at hset
  obtain ⟨written, hwritten, hnibbles, -⟩ := response_of_answersBlock hset
  refine ⟨written, hwritten, fun s' q' rest' hs' hblk => ?_⟩
  have hbo (x' y' : BitVec 2) := hnibbles x'.toNat x'.isLt y'.toNat y'.isLt
  have hget (wide : Bool) (x' y' : BitVec 2) := geta3Result wide x' y' s' q' rest' hs'
  simp only [hblk, hbo, BitVec.toNat_inj] at hget
  refine ⟨by simpa using hget false x y, fun wide x' y' hother s0 rest0 hs0 => ?_, ?_⟩
  · refine ⟨_, geta3Result wide x' y' s0 q rest0 hs0, ?_⟩
    simpa only [if_neg hother] using hget wide x' y'
  · rintro rfl
    exact ⟨by simpa using hget true x y, expanded_quantised_within _⟩

end Sys2Proof.Machine

/-! # Proofs of the family of the block multiplexer (spec/45_block_mux.md)

## Selectors that are written -/

namespace Sys2Proof.Machine

open Sys2Proof.Safety

/-- Every field of k bits after field i is written, in a word that is cut into such fields. -/
theorem extract_writeField_aligned {n k : Nat} (v : BitVec n) {i : Nat} (f : BitVec k) (h : k * i + k ≤ n) (j : Nat) :
    (writeField v (k * i) f).extractLsb' (k * j) k = if j = i then f else v.extractLsb' (k * j) k := by
  split
  next hj => rw [hj, extract_writeField_same v _ f h]
  next hj =>
    apply extract_writeField_apart
    rcases Nat.lt_or_gt_of_ne hj with hlt | hgt
    · exact .inl (by simpa [Nat.mul_succ] using Nat.mul_le_mul_left k hlt)
    · exact .inr (by simpa [Nat.mul_succ] using Nat.mul_le_mul_left k hgt)

theorem baseOf_le {f : Flavor} {o : Nat} (h : baseOf f = some o) : o ≤ 8 := by
  cases f <;> simp [baseOf] at h <;> omega

/-- Every color selector after one is written (R175). -/
theorem colorSelector_written (b : Block) {o i : Nat} (ho : o ≤ 8) (hi : i < 16) (f : BitVec 2) (t : Nat) :
    colorSelector (writeBlkField b (o + 4) (writeField (blkField b (o + 4) 32) (2 * i) f)) o t =
      if t = i then f.toNat else colorSelector b o t := by
  rw [← colorSel_toNat, blkField_writeBlkField b _ _ (by omega), colorSel, extract_writeField_aligned _ f (by omega) t,
    apply_ite BitVec.toNat, ← colorSel_toNat b, colorSel]

/-- Every alpha selector after one is written (R179). -/
theorem alphaSelector_written (b : Block) {i : Nat} (hi : i < 16) (f : BitVec 3) (t : Nat) :
    alphaSelector (writeBlkField b 2 (writeField (blkField b 2 48) (3 * i) f)) t =
      if t = i then f.toNat else alphaSelector b t := by
  rw [← alphaSel_toNat, blkField_writeBlkField b _ _ (by omega), alphaSel, extract_writeField_aligned _ f (by omega) t,
    apply_ite BitVec.toNat, ← alphaSel_toNat b, alphaSel]

/-- The low bits of an operand that has no others. -/
theorem extract_low_toNat {n : Nat} (a : BitVec n) {w : Nat} (h : a.toNat < 2 ^ w) :
    (a.extractLsb' 0 w).toNat = a.toNat := by
  rw [extract_toNat, pow_zero, Nat.div_one, Nat.mod_eq_of_lt h]

/-! ## The color block (R172 to R175) -/

/-- Settles O42. -/
theorem gcepResult : Obligations.GcepResult := by
  intro fmt s q rest hs
  cases hbase : baseOf fmt with
  | none => exact (exec_faults_iff hs (.gcep fmt) .badFormat).2 (if_pos hbase)
  | some o => exact perform_scalar hs (onColorBlock_eq_ok.2 ⟨o, hbase, rfl⟩) (blkField32_toNat q.blk o)

/-- Settles O43. -/
theorem scepResult : Obligations.ScepResult := by
  intro fmt s q rest hs
  cases hbase : baseOf fmt with
  | none => exact (exec_faults_iff hs (.scep fmt) .badFormat).2 (if_pos hbase)
  | some o =>
    have ho := baseOf_le hbase
    refine perform_block hs (onColorBlock_eq_ok.2 ⟨o, hbase, rfl⟩)
      ⟨?_, fun j => blockByte_writeBlkField _ o _ j 4 rfl⟩
    rw [← blkField32_toNat, blkField_writeBlkField _ o _ (by omega)]

/-- Settles O44. -/
theorem gcselResult : Obligations.GcselResult := by
  intro fmt x y s q rest hs
  cases hbase : baseOf fmt with
  | none => exact (exec_faults_iff hs (.gcsel fmt x y) .badFormat).2 (if_pos hbase)
  | some o =>
    exact perform_scalar hs (onColorBlock_eq_ok.2 ⟨o, hbase, rfl⟩)
      ((BitVec.toNat_setWidth_of_le (by decide)).trans (colorSel_toNat q.blk o _))

/-- Settles O45. -/
theorem scselResult : Obligations.ScselResult := by
  intro fmt x y s q rest hs
  cases hbase : baseOf fmt with
  | none => exact (exec_faults_iff hs (.scsel fmt x y) .badFormat).2 (if_pos hbase)
  | some o =>
    by_cases hrange : 3 < q.a.toNat
    · simp only [if_pos hrange]
      exact (exec_faults_iff hs (.scsel fmt x y) .valueRange).2 (by simp [operandFault, hbase, hrange])
    · simp only [if_neg hrange]
      refine perform_block hs (onColorBlock_eq_ok.2 ⟨o, hbase, checkMax_within hrange⟩)
        ⟨fun t _ => ?_, fun j hj => blockByte_writeBlkField _ (o + 4) _ j 4 rfl (by omega)⟩
      rw [colorSelector_written _ (baseOf_le hbase) (texelNumber_lt x y), extract_low_toNat _ (by omega)]
      rfl

/-! ## The interpolated alpha (R176 to R179) -/

/-- Settles O46. -/
theorem gaepResult : Obligations.GaepResult := by
  intro fmt s q rest hs
  refine ⟨fun hramp => ?_, fun hramp => (exec_faults_iff hs (.gaep fmt) .badFormat).2 (if_neg hramp)⟩
  exact perform_scalar hs (onAlphaBlock_ramp hramp)
    ((BitVec.toNat_setWidth_of_le (by decide)).trans (blkField16_toNat q.blk 0))

/-- Settles O47. -/
theorem saepResult : Obligations.SaepResult := by
  intro fmt s q rest hs
  refine ⟨fun hramp => ?_, fun hramp => (exec_faults_iff hs (.saep fmt) .badFormat).2 (if_neg hramp)⟩
  refine perform_block hs (onAlphaBlock_ramp hramp)
    ⟨?_, fun j hj => blockByte_writeBlkField _ 0 _ j 2 rfl (by omega)⟩
  rw [← blkField16_toNat, blkField_writeBlkField _ 0 _ (by decide), low16_toNat]

/-- Settles O48. -/
theorem gaselResult : Obligations.GaselResult := by
  intro fmt x y s q rest hs
  refine ⟨fun hramp => ?_, fun hramp => (exec_faults_iff hs (.gasel fmt x y) .badFormat).2 (if_neg hramp)⟩
  exact perform_scalar hs (onAlphaBlock_ramp hramp)
    ((BitVec.toNat_setWidth_of_le (by decide)).trans (alphaSel_toNat q.blk _))

/-- Settles O49. -/
theorem saselResult : Obligations.SaselResult := by
  intro fmt x y s q rest hs
  refine ⟨fun hramp => ?_, fun hramp => (exec_faults_iff hs (.sasel fmt x y) .badFormat).2 (if_neg hramp)⟩
  by_cases hrange : 7 < q.a.toNat
  · rw [if_pos hrange]
    exact (exec_faults_iff hs (.sasel fmt x y) .valueRange).2 ((if_pos hramp).trans (if_pos hrange))
  · rw [if_neg hrange]
    refine perform_block hs ((onAlphaBlock_ramp hramp).trans (checkMax_within hrange))
      ⟨fun t _ => ?_, fun j hj => blockByte_writeBlkField _ 2 _ j 6 rfl (by omega)⟩
    rw [alphaSelector_written _ (texelNumber_lt x y), extract_low_toNat _ (by omega)]
    rfl

/-! ## Decoded texels in numbers (R180 to R182) -/

theorem colorTexel_toNat (b : Block) (o t : Nat) {k : Nat} (hk : k ≤ 1) :
    (colorTexel b o t k).toNat = colorTexelNat b o t k := by
  rw [colorTexel, palette_toNat _ _ k hk _ (BitVec.isLt _), blkField16_toNat, blkField16_toNat, colorSel_toNat,
    colorTexelNat]

theorem alphaTexel_toNat (b : Block) (t : Nat) : (alphaTexel b t).toNat = alphaTexelNat b t := by
  rw [alphaTexel, alphaRamp_toNat _ _ _ (BitVec.isLt _), blkByte_toNat, blkByte_toNat, alphaSel_toNat, alphaTexelNat]

/-- x and y of a texel number (spec/00_scope.md R11). -/
theorem texelAt_mod_div (x y : BitVec 2) : texelAt x y % 4 = x.toNat ∧ texelAt x y / 4 = y.toNat := by
  unfold texelAt
  omega

theorem texelAt_ofNat {t : Nat} (ht : t < 16) : texelAt (BitVec.ofNat 2 (t % 4)) (BitVec.ofNat 2 (t / 4)) = t := by
  simp only [texelAt, BitVec.toNat_ofNat]
  omega

/-- What a known flavor decodes a texel to. -/
theorem texelDecoder_toNat {f : Flavor} {texel : Block → BitVec 2 → BitVec 2 → Nat → Word}
    (hd : texelDecoder f = .ok texel) (b : Block) (x y : BitVec 2) {k : Nat} (hk : k ≤ 1) :
    (texel b x y k).toNat = texelNat f b (texelAt x y) k := by
  have ht : texelNumber x y = texelAt x y := rfl
  obtain ⟨hx, hy⟩ := texelAt_mod_div x y
  cases f with
  | dxt1 | dxt1a =>
    obtain rfl := Except.ok.inj hd
    exact colorTexel_toNat b 0 _ hk
  | dxt3 =>
    obtain rfl := Except.ok.inj hd
    simp only [withAlpha_toNat, colorTexel_toNat _ _ _ hk, expandNibble_toNat, nibble_toNat, texelNat, hx, hy, ht]
  | dxt5 =>
    obtain rfl := Except.ok.inj hd
    simp only [withAlpha_toNat, colorTexel_toNat _ _ _ hk, alphaTexel_toNat, texelNat, ht]
  | dxt5a =>
    obtain rfl := Except.ok.inj hd
    exact (BitVec.toNat_setWidth_of_le (by decide)).trans (alphaTexel_toNat b _)
  | unknown tag => cases hd

/-! ## The decode operations (R182 to R185) -/

/-- Settles O51. -/
theorem dectResult : Obligations.DectResult := by
  intro fmt x y rnd s q rest hs
  by_cases hknown : known fmt
  · rw [if_pos hknown]
    obtain ⟨texel, hd⟩ := texelDecoder_known hknown
    change AnswersScalar (execDect fmt x y rnd s) s rest _
    exact perform_scalar (r := texel q.blk x y (roundAddend rnd)) hs (by rw [hd])
      (texelDecoder_toNat hd q.blk x y (roundAddend_le rnd))
  · rw [if_neg hknown]
    exact (exec_faults_iff hs (.dect fmt x y rnd) .badFormat).2 (if_neg hknown)

/-- Settles O52: DECT's numbers, one for each texel number. -/
theorem decbIsSixteenDects : Obligations.DecbIsSixteenDects := by
  intro fmt rnd s q rest hs
  by_cases hknown : known fmt
  · rw [if_pos hknown]
    obtain ⟨texel, hd⟩ := texelDecoder_known hknown
    refine ⟨fun t => texelNat fmt q.blk t (addend rnd), ?_, fun x y => ?_⟩
    · change AnswersVector (execDecb fmt rnd s) s rest 0 _
      refine perform_vector hs (by rw [hd]) rfl fun t ht => ?_
      rw [Vector.getElem_ofFn, texelDecoder_toNat hd _ _ _ (roundAddend_le rnd), texelAt_ofNat ht,
        roundAddend_eq_addend]
    · simpa only [if_pos hknown] using dectResult fmt x y rnd s q rest hs
  · rw [if_neg hknown]
    exact (exec_faults_iff hs (.decb fmt rnd) .badFormat).2 (if_neg hknown)

/-- A query of a value that fits R (spec/46_format_metadata.md). -/
theorem perform_answerQuery {s : State} {q : Request} {rest : List HostMove} {v : Except FaultCode Nat} {n : Nat}
    (hs : Ready s q rest) (hv : v = .ok n) (hn : n < 2 ^ 32) :
    AnswersScalar (perform s fun _ => answerQuery v) s rest n :=
  perform_scalar hs (congrArg answerQuery hv) (Nat.mod_eq_of_lt hn)

/-- Settles O53: the two flavors share every case of the model but that of hasAlpha. -/
theorem dxt1aDecodesAsDxt1 : Obligations.Dxt1aDecodesAsDxt1 := by
  intro s
  simp only [List.forall_mem_cons, List.not_mem_nil, false_implies, implies_true, and_true]
  exact ⟨fun _ _ _ => rfl, fun _ => rfl, ⟨rfl, rfl, rfl, rfl, rfl, rfl⟩,
    ⟨fun _ _ => rfl, fun _ _ => rfl, fun _ _ => rfl, fun _ _ => rfl⟩,
    fun q rest hs => ⟨perform_answerQuery hs rfl (by decide), perform_answerQuery hs rfl (by decide)⟩⟩

/-- Selector 3 in the 3-color mode is the sentinel (spec/42_ramps.md R122). -/
theorem colorTexelNat_sentinel {b : Block} {o t : Nat} (hmode : blockLE b o 2 ≤ blockLE b (o + 2) 2)
    (hsel : colorSelector b o t = 3) (k : Nat) : colorTexelNat b o t k = 0 := by
  rw [colorTexelNat, hsel, paletteEntry_sentinel (Nat.not_lt.2 hmode)]

/-- Settles O54: DECT replaces the alpha of the sentinel. -/
theorem dxt3AndDxt5KeepTheColorMode : Obligations.Dxt3AndDxt5KeepTheColorMode := by
  intro x y rnd s q rest hs hmode hsel
  have hcolor := colorTexelNat_sentinel (o := 8) hmode hsel (addend rnd)
  obtain ⟨hx, hy⟩ := texelAt_mod_div x y
  have h3 := dectResult .dxt3 x y rnd s q rest hs
  have h5 := dectResult .dxt5 x y rnd s q rest hs
  simp only [known, if_true, texelNat, hcolor, Nat.zero_mod, Nat.zero_add, hx, hy] at h3 h5
  exact ⟨h3, h5⟩

end Sys2Proof.Machine

/-! # Proofs of the family of the format metadata (spec/46_format_metadata.md)

The table of R200 is what the queries look up, and its numbers fit R. -/

namespace Sys2Proof.Machine

open Sys2Proof.Safety

/-! ## The table of the flavors (R200) -/

theorem bitsPerPixel_known {f : Flavor} (h : known f = true) : bitsPerPixel f = .ok (metadata f).1 := by
  cases f with
  | unknown tag => cases h
  | _ => rfl

theorem hasAlpha_known {f : Flavor} (h : known f = true) : hasAlpha f = .ok (metadata f).2.2 := by
  cases f with
  | unknown tag => cases h
  | _ => rfl

/-- R200 derives the block bytes: bits per pixel, times 16 texels, over 8 bits a byte. -/
theorem metadata_bytes_eq (f : Flavor) : (metadata f).2.1 = (metadata f).1 * 2 := by
  cases f <;> rfl

theorem metadata_bits_le (f : Flavor) : (metadata f).1 ≤ 8 := by
  cases f <;> simp [metadata]

theorem metadata_alpha_le (f : Flavor) : (metadata f).2.2 ≤ 1 := by
  cases f <;> simp [metadata]

/-! ## The queries (R201 to R203) -/

/-- Settles O56: a known flavor has a row in the table, and on an unknown one each query fails the check of R222. -/
theorem formatQueries : Obligations.FormatQueries := by
  intro fmt s q rest hs
  by_cases hknown : known fmt
  · rw [if_pos hknown]
    have hbits := bitsPerPixel_known hknown
    have hbits_le := metadata_bits_le fmt
    have hbytes := metadata_bytes_eq fmt
    have halpha_le := metadata_alpha_le fmt
    have hblk : (bitsPerPixel fmt).map (fun n => n * 2) = .ok (metadata fmt).2.1 := by rw [hbits, hbytes]; rfl
    exact ⟨perform_answerQuery hs hbits (by omega), perform_answerQuery hs hblk (by omega),
      perform_answerQuery hs (hasAlpha_known hknown) (by omega)⟩
  · rw [if_neg hknown]
    have hfaults (i : Instr) (hi : operandFault i q = if known fmt then none else some .badFormat) :
        Faults (exec i s) s rest q .badFormat :=
      (exec_faults_iff hs i .badFormat).2 (hi.trans (if_neg hknown))
    exact ⟨hfaults (.fbpp fmt) rfl, hfaults (.fblk fmt) rfl, hfaults (.falpha fmt) rfl⟩

end Sys2Proof.Machine

/-! # Proofs of the family of the exceptions (spec/60_exceptions.md)

## What follows from the check that a request fails (R222, R225, R226) -/

namespace Sys2Proof.Machine

open Sys2Proof.Safety

/-- Settles O9: whatever the operation is, it does not run. -/
theorem faultedUnitAcceptsNoRequest : Obligations.FaultedUnitAcceptsNoRequest := by
  intro s q rest hq hfaulted
  obtain ⟨op, hstep⟩ := step_is_perform q.cmd
  refine ⟨?_, fun i => ?_⟩
  · rw [hstep s q rest hq rfl, perform_faulted _ hq hfaulted]
  · obtain ⟨opi, hexec⟩ := exec_is_perform i
    rw [hexec, perform_faulted _ hq hfaulted]

/-- The course of a request is fault entry with the one code that it can fault with, or a normal response. -/
theorem faultsOrAnswers_of_faults_iff {s : State} {q : Request} {rest : List HostMove}
    {o : Host.Outcome State Fault Refusal} {failed : Option FaultCode} (hs : Ready s q rest)
    (hop : ∃ op, o = perform s op ∧ ∀ q, AnswersNormally (op q))
    (hfaults : ∀ code, Faults o s rest q code ↔ failed = some code) : FaultsOrAnswers o s rest q failed := by
  cases failed with
  | some code => exact (hfaults code).2 rfl
  | none =>
    obtain ⟨op, rfl, hnormal⟩ := hop
    cases hq : op q with
    | ok resp =>
      obtain ⟨hfault, hfcode, -⟩ := hnormal q resp hq
      exact ⟨resp, hfault, hfcode, perform_ok hs hq⟩
    | error code => exact nomatch (hfaults code).1 (perform_error hs hq)

/-- Settles O11. -/
theorem operationsFaultExactlyOnTheirConditions : Obligations.OperationsFaultExactlyOnTheirConditions :=
  fun i s _ _ hs => faultsOrAnswers_of_faults_iff hs (exec_answersNormally i s) (exec_faults_iff hs i)

/-! ## The checks after decode, on the fields of the command word (R221, R224) -/

/-- The checks that R224 puts after the two of the decoder, in its order. -/
def fieldFault (q : Request) : Option FaultCode :=
  if formatFails (cmdOp q.cmd).toNat (cmdFmt q.cmd).toNat then some .badFormat
  else if indexFails (cmdOp q.cmd).toNat (cmdImm8 q.cmd).toNat then some .badIndex
  else if valueFails (cmdOp q.cmd).toNat (cmdS q.cmd).toNat q.a.toNat q.b.toNat then some .valueRange
  else none

theorem requestFault_of_unassigned {q : Request} (h : usedFields (q.cmd.toNat % 64) = none) :
    requestFault q = some .illegalOpcode := by
  simp only [requestFault, h]

/-- A request with an assigned OP. -/
theorem requestFault_of_assigned {q : Request} {used : Word} (h : usedFields (q.cmd.toNat % 64) = some used) :
    requestFault q = if q.cmd &&& ~~~(0x3F ||| used) = 0 then fieldFault q else some .reservedField := by
  simp only [requestFault, h, fieldFault, cmdOp_toNat, cmdFmt_toNat, cmdImm8_toNat, cmdS_toNat, ne_eq, ite_not]

/-! ### The flavors that an operation admits (spec/45_block_mux.md R171; spec/46_format_metadata.md R201 to R203) -/

theorem tag_above_three_iff {f : Flavor} (h : f.wf = true) : 3 < (tagOfFlavor f).toNat ↔ baseOf f = none := by
  cases f with
  | unknown tag => revert tag; decide
  | _ => decide

theorem tag_three_or_four_iff {f : Flavor} (h : f.wf = true) :
    (tagOfFlavor f).toNat = 3 ∨ (tagOfFlavor f).toNat = 4 ↔ f = .dxt5 ∨ f = .dxt5a := by
  cases f with
  | unknown tag => revert tag; decide
  | _ => decide

theorem tag_above_four_iff {f : Flavor} (h : f.wf = true) : 4 < (tagOfFlavor f).toNat ↔ known f = false := by
  cases f with
  | unknown tag => revert tag; decide
  | _ => decide

/-! ### The checks of an encoded instruction -/

/-- An instruction's OP says which of the three checks there are, and they are those of its own rule; S chooses a bound
and FMT a flavor, and every other condition is the rule's as it is written. -/
theorem fieldFault_encode {i : Instr} (hi : i.wf = true) (a b : Word) (blk : Block) :
    fieldFault ⟨encode i, a, b, blk⟩ = operandFault i ⟨encode i, a, b, blk⟩ := by
  simp only [encode, encodePlain, encodeImm, encodeFmt, encodeTexel, operandFault, fieldFault, formatFails,
    indexFails, valueFails]
  cases i with
  | seta3 scaled => cases scaled <;> simp
  | gcep | scep | gcsel | scsel => simp [tag_above_three_iff hi]
  | gaep f | saep f | gasel f | sasel f =>
    have htag := tag_three_or_four_iff hi
    by_cases hramp : f = .dxt5 ∨ f = .dxt5a
    · simp [hramp, htag.2 hramp]
    · simp [hramp, mt htag.1 hramp]
  | dect f | decb f | fbpp f | falpha f | fblk f => cases hknown : known f <;> simp [tag_above_four_iff hi, hknown]
  | _ => simp

/-- The checks read off the raw words are those of the decoder and the decoded operation. -/
theorem commandFault_eq_requestFault (q : Request) : commandFault q = requestFault q := by
  unfold commandFault
  rcases decode_cases q.cmd with ⟨hused, hd⟩ | ⟨used, i, hused, -, -, hd⟩
  · rw [hd, requestFault_of_unassigned hused]
  · rw [requestFault_of_assigned hused]
    by_cases hzero : q.cmd &&& ~~~(0x3F ||| used) = 0
    · rw [if_pos hzero] at hd
      obtain ⟨hwf, hcmd⟩ := encodeAfterDecode q.cmd i hd
      obtain ⟨cmd, a, b, blk⟩ := q
      obtain rfl : encode i = cmd := hcmd
      rw [hd, if_pos hzero]
      exact (fieldFault_encode hwf a b blk).symm
    · rw [hd, if_neg hzero, if_neg hzero]

/-- Settles O10. -/
theorem firstFailingCheckGivesTheFault : Obligations.FirstFailingCheckGivesTheFault := by
  intro s q rest hs
  rw [← commandFault_eq_requestFault]
  exact faultsOrAnswers_of_faults_iff hs (step_answersNormally hs.1) (step_faults_iff hs)

end Sys2Proof.Machine

/-! # Proofs of the family of reset and hazards (spec/70_reset_and_hazards.md)

## Reset and idleness (R260, R235) -/

namespace Sys2Proof.Machine

open Sys2Proof.Safety

theorem step_reset {s : State} {inProgress : Option Request} {rest : List HostMove}
    (h : s.hostMoves = .reset inProgress :: rest) :
    step s = .next { rom := s.rom, status := 0, response := none, hostMoves := rest } := by
  simp [step, h, resetStep, State.takeReset]

theorem step_idle {s : State} (h : s.hostMoves = []) : step s = .next s := by
  simp [step, h, idleStep]

/-- Settles O8: STATUS 0 after reset is what a request needs to be accepted. -/
theorem resetAndIdleSteps : Obligations.ResetAndIdleSteps :=
  ⟨fun _ _ _ h => step_reset h, fun _ _ _ _ h => ⟨_, step_reset h, rfl, by simp⟩, fun _ h => step_idle h⟩

/-! ## Reading what was written (R264, R54) -/

theorem not_faults_of_answered {o : Host.Outcome State Fault Refusal} {s : State} {q : Request} {rest : List HostMove}
    {resp : Response} {code : FaultCode} (h : answered o = some resp) (hfault : resp.fault = false) :
    ¬Faults o s rest q code := by
  intro hfaults
  rw [hfaults] at h
  rw [← Option.some.inj h] at hfault
  cases hfault

theorem bo_of_answersBlock {o : Host.Outcome State Fault Refusal} {s : State} {rest : List HostMove}
    {resp : Response} {P : Block → Prop} (h : AnswersBlock o s rest P) (hresp : answered o = some resp) :
    P resp.bo := by
  obtain ⟨resp', hresp', hP⟩ := response_of_answersBlock h
  rwa [← Option.some.inj (hresp'.symm.trans hresp)]

section Written

variable {s : State} {q : Request} {rest : List HostMove} {resp : Response} {fmt : Flavor} {x y : BitVec 2}

/-- The color endpoints that SCEP has written, on a flavor that it admits. -/
theorem colorEndpoints_of_scep (hs : Ready s q rest) (hfault : resp.fault = false)
    (hresp : answered (exec (.scep fmt) s) = some resp) :
    ∃ o, baseOf fmt = some o ∧ blockLE resp.bo o 4 = q.a.toNat := by
  have hset := scepResult fmt s q rest hs
  cases hbase : baseOf fmt with
  | none => exact absurd (by simpa only [hbase] using hset) (not_faults_of_answered hresp hfault)
  | some o =>
    simp only [hbase] at hset
    exact ⟨o, rfl, (bo_of_answersBlock hset hresp).1⟩

/-- The color selector that SCSEL has written, on a flavor that it admits. -/
theorem colorSelector_of_scsel (hs : Ready s q rest) (hfault : resp.fault = false)
    (hresp : answered (exec (.scsel fmt x y) s) = some resp) :
    ∃ o, baseOf fmt = some o ∧ colorSelector resp.bo o (texelAt x y) = q.a.toNat := by
  have hset := scselResult fmt x y s q rest hs
  cases hbase : baseOf fmt with
  | none => exact absurd (by simpa only [hbase] using hset) (not_faults_of_answered hresp hfault)
  | some o =>
    simp only [hbase] at hset
    split at hset
    · exact absurd hset (not_faults_of_answered hresp hfault)
    · have hsel := (bo_of_answersBlock hset hresp).1 (texelAt x y) (texelNumber_lt x y)
      exact ⟨o, rfl, hsel.trans (if_pos rfl)⟩

/-- The alpha endpoints that SAEP has written, on a flavor that it admits. -/
theorem alphaEndpoints_of_saep (hs : Ready s q rest) (hfault : resp.fault = false)
    (hresp : answered (exec (.saep fmt) s) = some resp) :
    HasRamp fmt ∧ blockLE resp.bo 0 2 = q.a.toNat % 65536 := by
  obtain ⟨hset, hbad⟩ := saepResult fmt s q rest hs
  have hramp : HasRamp fmt := by_contra fun h => not_faults_of_answered hresp hfault (hbad h)
  exact ⟨hramp, (bo_of_answersBlock (hset hramp) hresp).1⟩

/-- The alpha selector that SASEL has written, on a flavor that it admits. -/
theorem alphaSelector_of_sasel (hs : Ready s q rest) (hfault : resp.fault = false)
    (hresp : answered (exec (.sasel fmt x y) s) = some resp) :
    HasRamp fmt ∧ alphaSelector resp.bo (texelAt x y) = q.a.toNat := by
  obtain ⟨hset, hbad⟩ := saselResult fmt x y s q rest hs
  have hramp : HasRamp fmt := by_contra fun h => not_faults_of_answered hresp hfault (hbad h)
  have hset := hset hramp
  split at hset
  · exact absurd hset (not_faults_of_answered hresp hfault)
  · have hsel := (bo_of_answersBlock hset hresp).1 (texelAt x y) (texelNumber_lt x y)
    exact ⟨hramp, hsel.trans (if_pos rfl)⟩

end Written

/-- Settles O55: each get operation answers its field of BLK, which is the field of BO that the set operation wrote. -/
theorem writtenFieldReadsBack : Obligations.WrittenFieldReadsBack := by
  intro fmt x y s q rest s' q' rest' resp hs hs' hfault hblk
  refine ⟨fun h => ?_, fun h => ?_, fun h => ?_, fun h => ?_⟩
  · obtain ⟨o, hbase, hwritten⟩ := colorEndpoints_of_scep hs hfault h
    simpa only [hbase, hblk, hwritten] using gcepResult fmt s' q' rest' hs'
  · obtain ⟨o, hbase, hwritten⟩ := colorSelector_of_scsel hs hfault h
    simpa only [hbase, hblk, hwritten] using gcselResult fmt x y s' q' rest' hs'
  · obtain ⟨hramp, hwritten⟩ := alphaEndpoints_of_saep hs hfault h
    simpa only [hblk, hwritten] using (gaepResult fmt s' q' rest' hs').1 hramp
  · obtain ⟨hramp, hwritten⟩ := alphaSelector_of_sasel hs hfault h
    simpa only [hblk, hwritten] using (gaselResult fmt x y s' q' rest' hs').1 hramp

/-! ## The requests of a run (R260, R266, R268) -/

/-- The move whose step left an entry. -/
def Served.move : Served → HostMove
  | .answered q _ => .request q
  | .discarded q | .notAccepted q => .reset (some q)

@[simp] theorem Served.presents_move (e : Served) : e.move.presents = some e.request := by
  cases e <;> rfl

/-- A step takes one move, and leaves an entry for it unless there is none or it is a reset with no request. -/
theorem step_takes_move {s t : State} (h : step s = .next t) :
    t.hostMoves = s.hostMoves.drop 1 ∧
      ∀ {α : Type} (g : HostMove → Option α), g (.reset none) = none →
        (servedBy s t).filterMap (fun e => g e.move) = (s.hostMoves.take 1).filterMap g := by
  rcases step_cases h with
    ⟨hm, rfl⟩ | ⟨inProgress, rest, hm, rfl⟩ | ⟨q, rest, resp, ⟨hm, -⟩, rfl⟩ | ⟨q, rest, code, ⟨hm, -⟩, rfl⟩
  · exact ⟨by simp [hm], fun g _ => by simp [servedBy_idle hm, hm]⟩
  · refine ⟨by simp, fun g hg => ?_⟩
    cases inProgress with
    | none => simp [servedBy_reset_none hm, hm, hg]
    | some q =>
      rw [servedBy_reset hm, hm]
      split <;> rfl
  · exact ⟨by simp, fun g _ => by rw [servedBy_request hm rfl, hm]; rfl⟩
  · exact ⟨by simp, fun g _ => by rw [servedBy_request hm rfl, hm]; rfl⟩

theorem core_run_of_serve {n : Nat} {s t : State} {served : List Served} (h : serve n s = some (t, served)) :
    Host.Core.run core n s = .next t := by
  induction n generalizing s served with
  | zero => cases h; rfl
  | succ n ih =>
    obtain ⟨s', later, hstep, hlater, -⟩ := serve_succ_cases h
    rw [core_run_succ hstep, ih hlater]

theorem serve_hostMoves {n : Nat} {s t : State} {served : List Served} (h : serve n s = some (t, served)) :
    t.hostMoves = s.hostMoves.drop n := by
  induction n generalizing s served with
  | zero => cases h; rfl
  | succ n ih =>
    obtain ⟨s', later, hstep, hlater, -⟩ := serve_succ_cases h
    rw [ih hlater, (step_takes_move hstep).1, List.drop_drop, Nat.add_comm]

/-- The entries of a run are those of its moves, in order; a reset with no request has none. -/
theorem serve_filterMap {n : Nat} {s t : State} {served : List Served} (h : serve n s = some (t, served))
    {α : Type} (g : HostMove → Option α) (hg : g (.reset none) = none) :
    served.filterMap (fun e => g e.move) = (s.hostMoves.take n).filterMap g := by
  induction n generalizing s served with
  | zero => cases h; rfl
  | succ n ih =>
    obtain ⟨s', later, hstep, hlater, rfl⟩ := serve_succ_cases h
    obtain ⟨hmoves, hfirst⟩ := step_takes_move hstep
    rw [List.filterMap_append, hfirst g hg, ih hlater, hmoves, ← List.filterMap_append, ← List.take_add, Nat.add_comm]

theorem serve_requests {n : Nat} {s t : State} {served : List Served} (h : serve n s = some (t, served)) :
    served.map Served.request = (s.hostMoves.take n).filterMap HostMove.presents := by
  rw [← serve_filterMap h HostMove.presents rfl]
  simp

/-- A run that has taken all moves is finished unless reset discarded a request or the unit is faulted
(log entry 12). -/
theorem finished_iff {n : Nat} {s t : State} {served : List Served} (h : serve n s = some (t, served))
    (hdone : t.hostMoves = []) :
    Finished n s ↔ (∀ q, .discarded q ∉ served) ∧ t.status.getLsbD 0 = false := by
  constructor
  · rintro ⟨t', served', h', -, hstatus, -, hends⟩
    obtain ⟨rfl, rfl⟩ : t = t' ∧ served = served' := by simpa using h.symm.trans h'
    refine ⟨fun q hq => ?_, hstatus⟩
    rcases hends _ hq with ⟨_, _, he⟩ | ⟨_, he⟩ <;> cases he
  · rintro ⟨hkept, hstatus⟩
    have hall : s.hostMoves.take n = s.hostMoves :=
      List.take_of_length_le (List.drop_eq_nil_iff.1 ((serve_hostMoves h).symm.trans hdone))
    refine ⟨t, served, h, hdone, hstatus, hall ▸ serve_requests h, fun e he => ?_⟩
    cases e with
    | answered q resp => exact .inl ⟨q, resp, rfl⟩
    | discarded q => exact absurd he (hkept q)
    | notAccepted q => exact .inr ⟨q, rfl⟩

/-- Settles O20: an entry's move says which request it is for and whether that request is answered. -/
theorem runsServeRequestsInOrder : Obligations.RunsServeRequestsInOrder := by
  intro n s t served h
  refine ⟨core_run_of_serve h, serve_hostMoves h, serve_requests h, ?_, finished_iff h⟩
  refine (List.filterMap_congr fun e _ => ?_).trans (serve_filterMap h _ rfl)
  cases e <;> rfl

/-! ## Requests that fail no check -/

/-- The entry of a request that has its normal response, the one that every ready unit with the tables gives to it. -/
def Served.AnsweredAsAlone (rom : RomTables) (e : Served) : Prop :=
  ∃ q resp, e = .answered q resp ∧ resp.fault = false ∧ resp.fcode = 0 ∧
    ∀ alone rest, alone.rom = rom → Ready alone q rest → AnswersWith (step alone) alone rest resp

/-- A request that fails no check has one normal response, which the tables and the request alone decide. -/
theorem step_answers_of_no_fault {s : State} {q : Request} {rest : List HostMove} (hs : Ready s q rest)
    (hq : requestFault q = none) :
    ∃ resp, AnswersWith (step s) s rest resp ∧ (Served.answered q resp).AnsweredAsAlone s.rom := by
  have hanswers (w : State) (rest' : List HostMove) (hw : Ready w q rest') :
      FaultsOrAnswers (step w) w rest' q none := hq ▸ firstFailingCheckGivesTheFault w q rest' hw
  obtain ⟨resp, hfault, hfcode, hstep⟩ := hanswers s rest hs
  refine ⟨resp, hstep, q, resp, rfl, hfault, hfcode, fun alone rest' hrom halone => ?_⟩
  obtain ⟨resp', -, -, hstep'⟩ := hanswers alone rest' halone
  obtain ⟨r, hr, hr'⟩ := responseDependsOnTheRequestAlone alone s q rest' rest hrom halone hs
  obtain rfl : resp' = r := Option.some.inj ((congrArg answered hstep').symm.trans hr)
  obtain rfl : resp = resp' := Option.some.inj ((congrArg answered hstep).symm.trans hr')
  exact hstep'

/-- A run of requests that fail no check. -/
theorem serve_of_no_fault (moves : List HostMove) (s : State) (hmoves : s.hostMoves = moves)
    (hstatus : s.status.getLsbD 0 = false) (hgood : ∀ m ∈ moves, ∃ q, m = .request q ∧ requestFault q = none) :
    ∃ t served, serve moves.length s = some (t, served) ∧ t.status.getLsbD 0 = false ∧ t.rom = s.rom ∧
      served.map (fun e => HostMove.request e.request) = moves ∧ ∀ e ∈ served, e.AnsweredAsAlone s.rom := by
  induction moves generalizing s with
  | nil => exact ⟨s, [], rfl, hstatus, rfl, rfl, by simp⟩
  | cons m rest ih =>
    obtain ⟨⟨q, rfl, hq⟩, hrest⟩ := List.forall_mem_cons.1 hgood
    obtain ⟨resp, hstep, hanswered⟩ := step_answers_of_no_fault ⟨hmoves, hstatus⟩ hq
    obtain ⟨t, served, hserve, hstatus', hrom, hserved, hall⟩ :=
      ih { s with response := some resp, hostMoves := rest } rfl hstatus hrest
    refine ⟨t, .answered q resp :: served, ?_, hstatus', hrom, by simp [hserved],
      List.forall_mem_cons.2 ⟨hanswered, hall⟩⟩
    rw [List.length_cons, serve_succ hstep, hserve, servedBy_request hmoves rfl]
    rfl

/-- Settles O21: the run takes all moves, and no request of it is discarded or faults. -/
theorem goodRequestsFinish : Obligations.GoodRequestsFinish := by
  intro moves s hmoves hstatus hgood
  obtain ⟨t, served, hserve, hstatus', hrom, hserved, hall⟩ := serve_of_no_fault moves s hmoves hstatus hgood
  have hdone : t.hostMoves = [] := by rw [serve_hostMoves hserve, hmoves, List.drop_length]
  have hkept : ∀ q, Served.discarded q ∉ served := by
    intro q hq
    obtain ⟨_, _, he, -⟩ := hall _ hq
    cases he
  exact ⟨t, served, core_run_of_serve hserve, hserve, (finished_iff hserve hdone).2 ⟨hkept, hstatus'⟩, hrom,
    hserved, hall⟩

end Sys2Proof.Machine
